-- ==== Sys2Proof/Word.lean ====
section
/-! DEFINITION. The word types of SFR (00_scope.md rule R8): a byte of 8 bits, bit 7 the most significant; the 16-bit
patterns of the results; and a frame, eight bytes numbered 0 to 7 in the order they are received. -/

namespace Sys2Proof

/-- An unsigned 8-bit value (R8, R11). -/
abbrev Byte := BitVec 8

/-- A 16-bit pattern: what `X` and `Y` hold (R12). -/
abbrev Half := BitVec 16

/-- A RawFrame: eight bytes, `f[k]` the byte received k-th (R8, R11, R50). -/
abbrev Frame := Vector Byte 8

end Sys2Proof
end

