-- ==== Sys2Proof/Config.lean ====
section
/-! DEFINITION. The build-time parameters of 00_scope.md rule R7, and the free values of the model: constants with no
body for what the spec leaves open (a sensor's answer, `aux_o`, how much longer than its count a step takes). -/

namespace Sys2Proof

/-- The timing parameters of R7: `H`, `N_SETTLE` and `N_HOLD[0..6]`, in `clk` cycles, and the width `W_CNT` of the
counter that counts them. The cycle level takes them as an argument; the machine itself has the open constant
`Config.timing`. -/
structure Timing where
  h       : Nat
  nSettle : Nat
  nHold   : Vector Nat 7
  wCnt    : Nat
deriving DecidableEq, Repr

/-- The constraints of R7 on the timing parameters: each is at least 1, the first hold delay is strictly the longest,
and the later ones never grow (D14); and the counter is wide enough to count each of them, `W_CNT` being at least 1 and
`2^W_CNT` at least `max(N_SETTLE, N_HOLD[0], 16*H)`. -/
abbrev Timing.Ok (t : Timing) : Prop :=
  1 ≤ t.h ∧ 1 ≤ t.nSettle ∧ (∀ k : Fin 7, 1 ≤ t.nHold[k]) ∧
  (∀ k : Fin 7, k ≠ 0 → t.nHold[k] < t.nHold[(0 : Fin 7)]) ∧
  (∀ k l : Fin 7, 1 ≤ k → k ≤ l → t.nHold[l] ≤ t.nHold[k]) ∧
  1 ≤ t.wCnt ∧ max t.nSettle (max t.nHold[0] (16 * t.h)) ≤ 2 ^ t.wCnt

namespace Config

/-- `FRAME_LEN` (R7). -/
def frameLen : Nat := 8
/-- `MARKER`, the required value of frame byte 0 (R7). -/
def marker : Byte := 255
/-- `TX_FILL`, the byte written in every exchange (R7). -/
def txFill : Byte := 0
/-- `X_LO` and `X_HI` (R7). -/
def xLo : Fin 8 := 1
def xHi : Fin 8 := 2
/-- `Y_LO` and `Y_HI` (R7). -/
def yLo : Fin 8 := 3
def yHi : Fin 8 := 4
/-- `RSV0` and `RSV1`, the bytes that must be zero (R7). -/
def rsv0 : Fin 8 := 5
def rsv1 : Fin 8 := 6
/-- `CKS`, the byte that holds the checksum (R7). -/
def cks : Fin 8 := 7
/-- `CS_ACTIVE`, the level of `cs_n_o` while chip-select is asserted (R7, D12). -/
def csActive : Bool := false

/-- OPEN (R7): what `H` is above its least value 1 (log 8). -/
opaque halfPeriodExtra : Nat
/-- OPEN (R7): what `N_SETTLE` is above its least value 1 (log 8). -/
opaque settleExtra : Nat
/-- OPEN (R7): by how much each hold delay exceeds the least value the next one allows it (log 8). -/
opaque holdExtra : Fin 7 → Nat
/-- What `W_CNT` is above the least value that R7 derives from the other parameters: R7 bounds it only from below
(log 7). -/
opaque counterExtra : Nat
/-- OPEN (R7): the frequency of `clk` in hertz. -/
opaque fClkHz : Nat
/-- OPEN (R7, D27): the host's optional wait after an invalid sample, in `clk` cycles; no part of SFR. -/
opaque tBackoff : Nat

/-- `N_HOLD[k]`, built from the last gap up, so that every sequence R7 admits is some choice of `holdExtra` and no
other is (log 8). -/
def nHold6 : Nat := 1 + holdExtra 6
def nHold5 : Nat := nHold6 + holdExtra 5
def nHold4 : Nat := nHold5 + holdExtra 4
def nHold3 : Nat := nHold4 + holdExtra 3
def nHold2 : Nat := nHold3 + holdExtra 2
def nHold1 : Nat := nHold2 + holdExtra 1
def nHold0 : Nat := nHold1 + 1 + holdExtra 0

/-- `H` and `N_SETTLE`. -/
def halfPeriod : Nat := 1 + halfPeriodExtra
def nSettle : Nat := 1 + settleExtra

/-- The least `W_CNT` that R7 allows for a settle delay, a first hold delay and a half period. -/
def leastCounterWidth (settle hold h : Nat) : Nat := max 1 (Nat.clog 2 (max settle (max hold (16 * h))))

/-- The timing parameters of the machine: open, but for the constraints of R7. -/
def timing : Timing where
  h       := halfPeriod
  nSettle := nSettle
  nHold   := #v[nHold0, nHold1, nHold2, nHold3, nHold4, nHold5, nHold6]
  wCnt    := leastCounterWidth nSettle nHold0 halfPeriod + counterExtra

/-- FREE VALUE: the byte the sensor answers where the state's `sensor` does not say (R5, U7), for each draw. -/
opaque sensorByte : Nat → Byte
/-- FREE VALUE: the level of `aux_o` at each step (R23, U3). -/
opaque auxLine : Nat → Bool
/-- FREE VALUE: by how many cycles a step outlasts its count at the architectural level, where a delay is a lower
bound (R65, U9). -/
opaque slack : Nat → Nat

end Config

end Sys2Proof
end

