-- ==== Sys2Proof/Syntax.lean ====
section
/-! DEFINITION. The instruction set: one constructor per row of spec/opcode_table.json, the sequencer's
micro-operations with their index as an operand, and the three encoded formats of 30_encoding.md rule R43. -/

namespace Sys2Proof

/-- The rows of spec/opcode_table.json: four host commands (R47), nineteen steps of the micro-program (R48, R63), and
the frame that the decoder classifies (R44). -/
inductive Instr where
  | nop | readRaw | decode | sample
  | csa
  | dly0 | xchg0 | dly1 | xchg1 | dly2 | xchg2 | dly3 | xchg3
  | dly4 | xchg4 | dly5 | xchg5 | dly6 | xchg6 | dly7 | xchg7
  | csd | dec
  | frame (f : Frame)
deriving DecidableEq, Repr

/-- A micro-operation with its operand, the index that R65 and R66 take from the step. -/
inductive Micro where
  | csa
  | dly (n : Fin 8)
  | xchg (k : Fin 8)
  | csd
  | dec
deriving DecidableEq, Repr

/-- The row of the opcode table a micro-operation is. -/
def Micro.toInstr : Micro → Instr
  | .csa    => .csa
  | .dly n  => #v[Instr.dly0, .dly1, .dly2, .dly3, .dly4, .dly5, .dly6, .dly7][n]
  | .xchg k => #v[Instr.xchg0, .xchg1, .xchg2, .xchg3, .xchg4, .xchg5, .xchg6, .xchg7][k]
  | .csd    => .csd
  | .dec    => .dec

/-- An encoded item: each format has one fixed length (R43). A frame is numbered as on `frame_o` (R44). -/
inductive Encoded where
  | cmd   (op : BitVec 2)
  | ustep (step : BitVec 5)
  | frame (w : BitVec 64)
deriving DecidableEq, Repr

end Sys2Proof
end

