-- ==== Sys2Proof/WellFormed.lean ====
section
/-! DEFINITION. What is well-formed. Every `Instr` is: its constructors have no operand but a frame, and every frame of
eight bytes is defined (30_encoding.md R46). The one check is on encoded items: a `STEP` value is 0 to 18 (R49). -/

namespace Sys2Proof

/-- An encoded item that means something: every command code (R47) and every frame (R46) does; of the 32 values of
`STEP`, 0 to 18 do and 19 to 31 select nothing (R48, R49). -/
def Encoded.wellFormed : Encoded → Bool
  | .cmd _   => true
  | .ustep v => decide (v.toNat ≤ 18)
  | .frame _ => true

end Sys2Proof
end

