-- ==== Sys2Proof/Decode.lean ====
section
/-! DEFINITION. The decoder of the three formats (30_encoding.md R43 to R49), total, rejecting by name, and after it the
encoder. The step decoder is the formula of R48 on `STEP[4:1]` and `STEP[0]`; the encoder is the table of R63. -/

namespace Sys2Proof

/-- Why an encoded item is rejected. -/
inductive DecodeError where
  /-- a `STEP` value of 19 to 31, which selects nothing (R49) -/
  | stepReserved (v : BitVec 5)
deriving DecidableEq, Repr

/-- Byte k of a frame in `frame_o` numbering: bits 8k+7 down to 8k (R24, R44). -/
def frameByte (w : BitVec 64) (k : Nat) : Byte := w.extractLsb' (8 * k) 8

/-- The frame a 64-bit word packs (R44). -/
def unpackFrame (w : BitVec 64) : Frame :=
  #v[frameByte w 0, frameByte w 1, frameByte w 2, frameByte w 3,
     frameByte w 4, frameByte w 5, frameByte w 6, frameByte w 7]

/-- The 64-bit word of a frame: byte 7 in bits 63:56 down to byte 0 in bits 7:0 (R24, R44). -/
def packFrame (f : Frame) : BitVec 64 :=
  f[7] ++ f[6] ++ f[5] ++ f[4] ++ f[3] ++ f[2] ++ f[1] ++ f[0]

/-- Format CMD: bit 0 asks for a transport read cycle, bit 1 for a decode (R47). -/
def decodeCmd (op : BitVec 2) : Instr :=
  match op.getLsbD 0, op.getLsbD 1 with
  | false, false => .nop
  | true,  false => .readRaw
  | false, true  => .decode
  | true,  true  => .sample

/-- Format USTEP: with j = `STEP[4:1]` and p = `STEP[0]`, the table of R48; the values 19 to 31 select nothing (R49). -/
def decodeStep (v : BitVec 5) : Option Micro :=
  let j := v.toNat / 2
  if v.getLsbD 0 then
    if h : j < 8 then some (.dly ⟨j, h⟩) else if j = 8 then some .csd else none
  else if j = 0 then some .csa
  else if h : j - 1 < 8 then some (.xchg ⟨j - 1, h⟩)
  else if j = 9 then some .dec
  else none

/-- The decoder of every encoded item. -/
def decode : Encoded → Except DecodeError Instr
  | .cmd op  => .ok (decodeCmd op)
  | .ustep v =>
    match decodeStep v with
    | some m => .ok m.toInstr
    | none   => .error (.stepReserved v)
  | .frame w => .ok (.frame (unpackFrame w))

/-- The encoded item of an instruction: the codes of R47, the step numbers of R63, the packing of R44. -/
def encode : Instr → Encoded
  | .nop => .cmd 0b00 | .readRaw => .cmd 0b01 | .decode => .cmd 0b10 | .sample => .cmd 0b11
  | .csa => .ustep 0
  | .dly0 => .ustep 1  | .xchg0 => .ustep 2
  | .dly1 => .ustep 3  | .xchg1 => .ustep 4
  | .dly2 => .ustep 5  | .xchg2 => .ustep 6
  | .dly3 => .ustep 7  | .xchg3 => .ustep 8
  | .dly4 => .ustep 9  | .xchg4 => .ustep 10
  | .dly5 => .ustep 11 | .xchg5 => .ustep 12
  | .dly6 => .ustep 13 | .xchg6 => .ustep 14
  | .dly7 => .ustep 15 | .xchg7 => .ustep 16
  | .csd => .ustep 17
  | .dec => .ustep 18
  | .frame f => .frame (packFrame f)

/-- The item a word of the opcode table stands for. CMD rows have 2 bits and USTEP rows 5; rounded up to whole bytes
both have 8, and then a value below 4 is read as the command and any other as the step in its low five bits, the bits
above them being no part of `STEP` (log 10). -/
def tableItem (nbits w : Nat) : Option Encoded :=
  if nbits = 64 then some (.frame (BitVec.ofNat 64 w))
  else if nbits = 2 then some (.cmd (BitVec.ofNat 2 w))
  else if nbits = 5 then some (.ustep (BitVec.ofNat 5 w))
  else if nbits = 8 then
    if w < 4 then some (.cmd (BitVec.ofNat 2 w)) else some (.ustep (BitVec.ofNat 5 w))
  else none

/-- The instruction the decoder reads from a word of the opcode table. -/
def decodeTableWord (nbits w : Nat) : Option Instr :=
  match tableItem nbits w with
  | some e =>
    match decode e with
    | .ok i    => some i
    | .error _ => none
  | none => none

end Sys2Proof
end

