-- ==== Sys2Proof/Machine/State.lean ====
section
/-! DEFINITION. The state of the machine as plain data: SFR's registers (10_state.md R10), and beside them the model's
own account of the host, the sensor, the lines and time. -/

namespace Sys2Proof.Machine

/-- The registers of SFR: the table of R10, whole. -/
structure Regs where
  /-- `FB[0..7]`, the frame buffer (R11) -/
  fb    : Frame
  /-- `X` (R12) -/
  x     : Half
  /-- `Y` (R12) -/
  y     : Half
  /-- `VALID` (R13) -/
  valid : Bool
  /-- `BUSY` (R14) -/
  busy  : Bool
  /-- `DONE` (R15) -/
  done  : Bool
  /-- `OPR` (R16) -/
  opr   : BitVec 2
  /-- `STEP`, the program counter (R17) -/
  step  : BitVec 5
  /-- `CNT` (R18), the number that its `W_CNT` bits hold: read and written only as `W_CNT` bits, by `Regs.counter` and
  `Regs.countUp` (log 7) -/
  cnt   : Nat
  /-- `SR`, the receive shift register (R19) -/
  sr    : Byte
  /-- `CS`, true while chip-select is asserted (R20) -/
  cs    : Bool
  /-- `SCLK` (R21) -/
  sclk  : Bool
deriving DecidableEq, Repr

/-- The registers after reset: the table of 70_reset_and_hazards.md R107. -/
def Regs.reset : Regs where
  fb    := Vector.replicate 8 0
  x     := 0
  y     := 0
  valid := false
  busy  := false
  done  := false
  opr   := 0
  step  := 0
  cnt   := 0
  sr    := 0
  cs    := false
  sclk  := false

/-- What the host drives in one step: `rst_i`, `start_i` and `op_i` (R24). -/
structure Ports where
  rst   : Bool
  start : Bool
  op    : BitVec 2
deriving DecidableEq, Repr

/-- A host that drives nothing. -/
def Ports.quiet : Ports where
  rst   := false
  start := false
  op    := 0

/-- What the sensor will answer (R5, R51): the bytes of a stream and after them free bytes, or a data line stuck at a
level (R70). -/
inductive Sensor where
  | stream (q : List Byte)
  | stuck (level : Bool)
deriving DecidableEq, Repr

/-- What happened on the lines to the sensor, with the `clk` cycles passed when it did: an edge of chip-select (true:
asserted), or an exchange of one byte each way, from its start to its stop. -/
inductive WireEvent where
  | select (asserted : Bool) (moment : Nat)
  | exchange (tx rx : Byte) (start stop : Nat)
deriving DecidableEq, Repr

/-- The machine: SFR's registers, and the model's own record of its surroundings (INVENTORY.md, State). -/
structure State where
  /-- the registers of SFR -/
  regs   : Regs
  /-- what the host drives in the steps to come; past the end, nothing (log 3) -/
  ports  : List Ports
  /-- what the sensor will answer (log 4) -/
  sensor : Sensor
  /-- what happened on the lines, newest first (log 14) -/
  wire   : List WireEvent
  /-- steps taken: the argument of the free values -/
  tick   : Nat
  /-- `clk` cycles that have passed (log 5) -/
  time   : Nat
deriving DecidableEq, Repr

/-- SFR has no exception and no fault: "No command and no micro-operation raises, traps, aborts or diverts control"
(60_exceptions.md R93, R95; 41_transport_microops.md R77). Nothing raises one; safe (log 16). -/
inductive Fault where
deriving DecidableEq, Repr

/-- Why a step has no meaning. -/
inductive Refusal where
  /-- raised by `exec` for an instruction with no meaning yet; safe (no arm raises it now) -/
  | notModelled (mnemonic : String)
  /-- raised by `step` and `cycle`, but for a reset, in a state whose `STEP` is 19 to 31, idle or busy: it selects nothing
  and such a state is refused (30_encoding.md R49, U5; log 12); safe -/
  | stepReserved (v : BitVec 5)
deriving DecidableEq, Repr

/-- The machine right after reset: every register as R107 says; a host that drives nothing, a sensor of which nothing
is known, and nothing on the lines yet (log 20). -/
def State.reset : State where
  regs   := Regs.reset
  ports  := []
  sensor := .stream []
  wire   := []
  tick   := 0
  time   := 0

end Sys2Proof.Machine
end

