-- ==== Sys2Proof/Machine/Operands.lean ====
section
/-! DEFINITION. What the operations read: bytes and fields of a frame (00_scope.md R9, 20_memory.md R33,
30_encoding.md R45), the signed reading of a pattern, the sensor's answer to an exchange, and the host's ports. -/

namespace Sys2Proof.Machine

/-- `MemRead(k, n)`: n bytes from index k on, little-endian, as an unsigned integer; defined for `k + n <= 8` (R9, R33). -/
def memRead (f : Frame) : (k n : Nat) → k + n ≤ 8 → Nat
  | _, 0, _     => 0
  | k, n + 1, h => f[k].toNat + 256 * memRead f (k + 1) n (by omega)

/-- The 16-bit field whose low byte is at index `lo` and whose high byte is at index `hi` (R45). -/
def field16 (f : Frame) (lo hi : Fin 8) : Half :=
  f[lo].setWidth 16 + 256 * f[hi].setWidth 16

/-- The X field of a frame (R82). -/
def xField (f : Frame) : Half := field16 f Config.xLo Config.xHi

/-- The Y field of a frame (R83). -/
def yField (f : Frame) : Half := field16 f Config.yLo Config.yHi

/-- `signed16`: the number a 16-bit pattern denotes in two's complement (R9, R87, D17; log 21). -/
def signed16 (v : Half) : Int :=
  if v.toNat < 32768 then (v.toNat : Int) else (v.toNat : Int) - 65536

/-- The byte the sensor answers an exchange with; `free` is the answer where the stream has ended (R5, U7). -/
def sensorAnswer (free : Byte) : Sensor → Byte
  | .stream (b :: _) => b
  | .stream []       => free
  | .stuck level     => if level then 255 else 0

/-- The sensor after an exchange: its next byte is consumed (R36). -/
def sensorRest : Sensor → Sensor
  | .stream q    => .stream q.tail
  | .stuck level => .stuck level

/-- The sensor after a reset: where that cut a read cycle short, nothing is known of the answers to come (R108, U11);
a stuck line stays stuck (log 15). -/
def sensorAfterReset (cutShort : Bool) : Sensor → Sensor
  | .stream q    => if cutShort then .stream [] else .stream q
  | .stuck level => .stuck level

/-- The byte that `BusXchg` returns in this state (R9, R66). -/
def State.busAnswer (s : State) : Byte := sensorAnswer (Config.sensorByte s.tick) s.sensor

/-- What the host drives in this step (R24). -/
def State.nextPorts (s : State) : Ports := s.ports.headD Ports.quiet

end Sys2Proof.Machine
end

