-- ==== Sys2Proof/Machine/Flags.lean ====
section
/-! DEFINITION. The one computed flag, `VALID`, and the three tests it is the conjunction of
(42_frame_decoder.md R84 to R86). -/

namespace Sys2Proof.Machine

/-- The four payload bytes added as unsigned values, modulo 256 (R84). -/
def payloadSum (f : Frame) : Byte :=
  f[Config.xLo] + f[Config.xHi] + f[Config.yLo] + f[Config.yHi]

/-- `marker_ok`: byte 0 is 255 (R85). -/
def markerOk (f : Frame) : Bool := f[0] == Config.marker

/-- `reserved_ok`: bytes 5 and 6 are 0 (R85). -/
def reservedOk (f : Frame) : Bool := f[Config.rsv0] == 0 && f[Config.rsv1] == 0

/-- `checksum_ok`: the sum equals byte 7 (R84). -/
def checksumOk (f : Frame) : Bool := payloadSum f == f[Config.cks]

/-- `VALID`: all three tests hold (R86). -/
def validFlag (f : Frame) : Bool := markerOk f && reservedOk f && checksumOk f

end Sys2Proof.Machine
end

