-- ==== Sys2Proof/Machine/Timing.lean ====
section
/-! DEFINITION. Durations in `clk` cycles: of each micro-operation (41_transport_microops.md R72), of each command
(70_reset_and_hazards.md R121), and the counter width they need (00_scope.md R7). -/

namespace Sys2Proof.Machine

/-- DLY 0 is the settle delay, DLY n for n = 1..7 is hold delay n-1 (R65). -/
def delayCycles (t : Timing) (n : Fin 8) : Nat :=
  if n.val = 0 then t.nSettle else t.nHold[n.val - 1]

/-- An exchange is eight bit periods of `2*H` cycles (R73). -/
def exchangeCycles (t : Timing) : Nat := 16 * t.h

/-- The duration of each step (R72). -/
def microCycles (t : Timing) : Micro → Nat
  | .csa    => 1
  | .dly n  => delayCycles t n
  | .xchg _ => exchangeCycles t
  | .csd    => 1
  | .dec    => 1

/-- `N_HOLD[0] + ... + N_HOLD[k-1]`, for k up to 7. -/
def holdSum (t : Timing) (k : Nat) : Nat := (t.nHold.toList.take k).sum

/-- `T_k`, the number of the last cycle before exchange k, counted from the acceptance edge (R74). -/
def cyclesBeforeExchange (t : Timing) (k : Nat) : Nat :=
  1 + t.nSettle + k * exchangeCycles t + holdSum t k

/-- The cycles with `BUSY = 1` of a READ_RAW: `1 + S + 128*H + G + 1` (R121). -/
def readRawCycles (t : Timing) : Nat := 1 + t.nSettle + 128 * t.h + holdSum t 7 + 1

/-- The cycles with `BUSY = 1` of a DECODE (R121). -/
def decodeCycles : Nat := 1

/-- The cycles with `BUSY = 1` of a SAMPLE: one more than a READ_RAW (R121). -/
def sampleCycles (t : Timing) : Nat := readRawCycles t + 1

/-- The least `W_CNT` that R7 allows: `ceil(log2(max(N_SETTLE, N_HOLD[0], 16*H)))`, and at least 1. -/
def counterWidth (t : Timing) : Nat := Config.leastCounterWidth t.nSettle t.nHold[0] t.h

end Sys2Proof.Machine
end

