-- ==== Sys2Proof/Machine/Ops.lean ====
section
/-! DEFINITION. The shared operations on registers and state: the decoder function, acceptance, sequencing, completion,
reset, the passing of time, and what each kind of micro-operation does. SFR takes no exception (60_exceptions.md R93,
R99, R100), so there is no operation for taking one or for returning from one. -/

namespace Sys2Proof.Machine

/-- An AxisSample as patterns: what the decoder FD gives (42_frame_decoder.md R81). -/
structure Sample where
  x     : Half
  y     : Half
  valid : Bool
deriving DecidableEq, Repr

/-- The function `decode` of R81: total and pure (R88). -/
def fdDecode (f : Frame) : Sample where
  x     := xField f
  y     := yField f
  valid := validFlag f

/-- X, Y and VALID take a sample, all three in one step (R80, R37). -/
def latchSample (a : Sample) (r : Regs) : Regs := { r with x := a.x, y := a.y, valid := a.valid }

/-- CS takes a value (R64, R67). -/
def setSelect (b : Bool) (r : Regs) : Regs := { r with cs := b }

/-- A received byte goes to `FB[k]`. `SR` holds it too, having been shifted in, and the clock line is low again
(R19, R21, R66, R75; log 6). -/
def storeByte (k : Fin 8) (rx : Byte) (r : Regs) : Regs :=
  { r with fb := r.fb.set k rx, sr := rx, sclk := false }

/-- Acceptance of the command `op` (40_host_commands.md R55). -/
def accept (op : BitVec 2) (r : Regs) : Regs :=
  { r with
    opr  := op
    busy := true
    done := false
    step := if op.getLsbD 0 then 0 else 18
    cnt  := 0 }

/-- Completion of a command (R61). -/
def complete (r : Regs) : Regs := { r with busy := false, done := true, step := 0, cnt := 0 }

/-- On to the next micro-operation (R68). -/
def advance (r : Regs) : Regs := { r with step := r.step + 1, cnt := 0 }

/-- Sequencing at the end of a micro-operation (41_transport_microops.md R68). -/
def endMicro (r : Regs) : Regs :=
  if r.step = 18 ∨ (r.step = 17 ∧ r.opr.getLsbD 1 = false) then complete r else advance r

/-- One whole micro-operation on the registers, `rx` being the byte an exchange receives (R64 to R68, R80). -/
def runMicro (m : Micro) (rx : Byte) (r : Regs) : Regs :=
  match m with
  | .csa    => endMicro (setSelect true r)
  | .dly _  => endMicro r
  | .xchg k => endMicro (storeByte k rx r)
  | .csd    => endMicro (setSelect false r)
  | .dec    => endMicro (latchSample (fdDecode r.fb) r)

/-- A step that takes `n` cycles passes: at least so many, and how many more is a free value (R6, R65; log 5). -/
def State.elapse (n : Nat) (s : State) : State :=
  { s with tick := s.tick + 1, time := s.time + n + Config.slack s.tick }

/-- The host's inputs of this step are behind us. -/
def State.popPorts (s : State) : State := { s with ports := s.ports.tail }

/-- A line event happened. -/
def State.logWire (e : WireEvent) (s : State) : State := { s with wire := e :: s.wire }

/-- The registers take new values. -/
def State.setRegs (r : Regs) (s : State) : State := { s with regs := r }

/-- The sensor's next byte is consumed (R36). -/
def State.popSensor (s : State) : State := { s with sensor := sensorRest s.sensor }

/-- A command offered by the host: looked at only while BUSY = 0, accepted unless it is NOP (R55, R56, R60). -/
def offer (op : BitVec 2) (s : State) : State :=
  if s.regs.busy then s
  else if op = 0 then s.elapse 1
  else (s.elapse 1).setRegs (accept op s.regs)

/-- CSA and CSD: chip-select takes a value at the end of one cycle (R64, R67). -/
def select (m : Micro) (b : Bool) (s : State) : State :=
  let u := s.elapse (microCycles Config.timing m)
  (u.setRegs (runMicro m 0 s.regs)).logWire (.select b u.time)

/-- DLY n: time passes, at least the delay's, and nothing else happens (R65). -/
def delay (n : Fin 8) (s : State) : State :=
  (s.elapse (microCycles Config.timing (.dly n))).setRegs (runMicro (.dly n) 0 s.regs)

/-- XCHG k: the byte `TX_FILL` goes out, the sensor's answer comes in and goes to `FB[k]` (R66). -/
def exchange (k : Fin 8) (s : State) : State :=
  let u := s.elapse (microCycles Config.timing (.xchg k))
  ((u.setRegs (runMicro (.xchg k) s.busAnswer s.regs)).popSensor).logWire
    (.exchange Config.txFill s.busAnswer s.time u.time)

/-- DEC: the decoder reads the frame buffer and writes X, Y and VALID (R80). -/
def decodeBuffer (s : State) : State :=
  (s.elapse (microCycles Config.timing .dec)).setRegs (runMicro .dec 0 s.regs)

/-- A cycle in which nothing is offered: time passes (R103). -/
def idle (s : State) : State := s.elapse 1

/-- A reset edge: every register takes its reset value whatever is happening, chip-select falling back in the middle
of a frame if need be (70_reset_and_hazards.md R107, R108). -/
def applyReset (s : State) : State :=
  let u := s.elapse 1
  let v := { u.setRegs Regs.reset with sensor := sensorAfterReset s.regs.cs s.sensor }
  if s.regs.cs then v.logWire (.select false u.time) else v

end Sys2Proof.Machine
end

