-- ==== Sys2Proof/Machine/Commands.lean ====
section
/-! DEFINITION. The host commands NOP, READ_RAW, DECODE, SAMPLE (40_host_commands.md R54 to R62). What an offered
command does in its own step is acceptance; the micro-operations it starts are the steps that follow (R55; log 2). -/

namespace Sys2Proof.Machine

/-- NOP: no register changes (R56). -/
def execNop (s : State) : Host.Outcome State Fault Refusal := .next (offer 0b00 s)

/-- READ_RAW: starts the transport at CSA; CSD will end it (R55, R57). -/
def execReadRaw (s : State) : Host.Outcome State Fault Refusal := .next (offer 0b01 s)

/-- DECODE: starts at DEC, on the frame buffer as it is (R55, R58). -/
def execDecode (s : State) : Host.Outcome State Fault Refusal := .next (offer 0b10 s)

/-- SAMPLE: starts the transport at CSA; DEC will end it (R55, R59). -/
def execSample (s : State) : Host.Outcome State Fault Refusal := .next (offer 0b11 s)

end Sys2Proof.Machine
end

