-- ==== Sys2Proof/Machine/FrameDecoder.lean ====
section
/-! DEFINITION. The frame decoder FD: micro-operation DEC, the classification of a FRAME, the decoder as a block of its
own, and the reference encoder (42_frame_decoder.md R80 to R91). -/

namespace Sys2Proof.Machine

/-- DEC: `(X, Y, VALID) <- decode(FB)` and the command completes (R61, R80). -/
def execDec (s : State) : Host.Outcome State Fault Refusal := .next (decodeBuffer s)

/-- FRAME, the table's row for a frame on the input of the decoder: X and Y take its fields, and VALID says whether it
passes the three tests (R46, R81, R91; log 9). Nothing else changes: FD has no state and takes no time of its own. -/
def execFrame (f : Frame) (s : State) : Host.Outcome State Fault Refusal :=
  .next (s.setRegs (latchSample (fdDecode f) s.regs))

/-- FD alone, as a combinational block on a packed 64-bit input, in the slices of R91. -/
def fdAlone (w : BitVec 64) : Sample where
  x     := w.extractLsb' 8 16
  y     := w.extractLsb' 24 16
  valid := w.extractLsb' 0 8 == 0xFF && w.extractLsb' 40 16 == 0 &&
    (w.extractLsb' 8 8 + w.extractLsb' 16 8 + w.extractLsb' 24 8 + w.extractLsb' 32 8 == w.extractLsb' 56 8)

/-- The reference encoder `encode(x, y)`: the frame an ideal sensor would send (R89). No part of SFR. -/
def refFrame (x y : Half) : Frame :=
  let xl := x.extractLsb' 0 8
  let xh := x.extractLsb' 8 8
  let yl := y.extractLsb' 0 8
  let yh := y.extractLsb' 8 8
  #v[Config.marker, xl, xh, yl, yh, 0, 0, xl + xh + yl + yh]

end Sys2Proof.Machine
end

