-- ==== Sys2Proof/Machine/Transport.lean ====
section
/-! DEFINITION. The transport micro-operations CSA, DLY 0 to 7, XCHG 0 to 7, CSD (41_transport_microops.md R63 to R68). -/

namespace Sys2Proof.Machine

/-- CSA: chip-select is asserted (R64). -/
def execCsa (s : State) : Host.Outcome State Fault Refusal := .next (select .csa true s)

/-- CSD: chip-select is deasserted; a READ_RAW completes here (R61, R67). -/
def execCsd (s : State) : Host.Outcome State Fault Refusal := .next (select .csd false s)

/-- DLY 0: the settle delay (R65). -/
def execDly0 (s : State) : Host.Outcome State Fault Refusal := .next (delay 0 s)

/-- DLY 1: hold delay 0 (R65). -/
def execDly1 (s : State) : Host.Outcome State Fault Refusal := .next (delay 1 s)

/-- DLY 2: hold delay 1 (R65). -/
def execDly2 (s : State) : Host.Outcome State Fault Refusal := .next (delay 2 s)

/-- DLY 3: hold delay 2 (R65). -/
def execDly3 (s : State) : Host.Outcome State Fault Refusal := .next (delay 3 s)

/-- DLY 4: hold delay 3 (R65). -/
def execDly4 (s : State) : Host.Outcome State Fault Refusal := .next (delay 4 s)

/-- DLY 5: hold delay 4 (R65). -/
def execDly5 (s : State) : Host.Outcome State Fault Refusal := .next (delay 5 s)

/-- DLY 6: hold delay 5 (R65). -/
def execDly6 (s : State) : Host.Outcome State Fault Refusal := .next (delay 6 s)

/-- DLY 7: hold delay 6 (R65). -/
def execDly7 (s : State) : Host.Outcome State Fault Refusal := .next (delay 7 s)

/-- XCHG 0: one byte is exchanged, into `FB[0]` (R66). -/
def execXchg0 (s : State) : Host.Outcome State Fault Refusal := .next (exchange 0 s)

/-- XCHG 1: one byte is exchanged, into `FB[1]` (R66). -/
def execXchg1 (s : State) : Host.Outcome State Fault Refusal := .next (exchange 1 s)

/-- XCHG 2: one byte is exchanged, into `FB[2]` (R66). -/
def execXchg2 (s : State) : Host.Outcome State Fault Refusal := .next (exchange 2 s)

/-- XCHG 3: one byte is exchanged, into `FB[3]` (R66). -/
def execXchg3 (s : State) : Host.Outcome State Fault Refusal := .next (exchange 3 s)

/-- XCHG 4: one byte is exchanged, into `FB[4]` (R66). -/
def execXchg4 (s : State) : Host.Outcome State Fault Refusal := .next (exchange 4 s)

/-- XCHG 5: one byte is exchanged, into `FB[5]` (R66). -/
def execXchg5 (s : State) : Host.Outcome State Fault Refusal := .next (exchange 5 s)

/-- XCHG 6: one byte is exchanged, into `FB[6]` (R66). -/
def execXchg6 (s : State) : Host.Outcome State Fault Refusal := .next (exchange 6 s)

/-- XCHG 7: one byte is exchanged, into `FB[7]` (R66). -/
def execXchg7 (s : State) : Host.Outcome State Fault Refusal := .next (exchange 7 s)

end Sys2Proof.Machine
end

