-- ==== Sys2Proof/Machine/Dispatch.lean ====
section
/-! DEFINITION. One arm per instruction. -/

namespace Sys2Proof.Machine

def exec (i : Instr) (s : State) : Host.Outcome State Fault Refusal :=
  match i with
  | .nop => Sys2Proof.Machine.execNop s
  | .readRaw => Sys2Proof.Machine.execReadRaw s
  | .decode => Sys2Proof.Machine.execDecode s
  | .sample => Sys2Proof.Machine.execSample s
  | .csa => Sys2Proof.Machine.execCsa s
  | .dly0 => Sys2Proof.Machine.execDly0 s
  | .xchg0 => Sys2Proof.Machine.execXchg0 s
  | .dly1 => Sys2Proof.Machine.execDly1 s
  | .xchg1 => Sys2Proof.Machine.execXchg1 s
  | .dly2 => Sys2Proof.Machine.execDly2 s
  | .xchg2 => Sys2Proof.Machine.execXchg2 s
  | .dly3 => Sys2Proof.Machine.execDly3 s
  | .xchg3 => Sys2Proof.Machine.execXchg3 s
  | .dly4 => Sys2Proof.Machine.execDly4 s
  | .xchg4 => Sys2Proof.Machine.execXchg4 s
  | .dly5 => Sys2Proof.Machine.execDly5 s
  | .xchg5 => Sys2Proof.Machine.execXchg5 s
  | .dly6 => Sys2Proof.Machine.execDly6 s
  | .xchg6 => Sys2Proof.Machine.execXchg6 s
  | .dly7 => Sys2Proof.Machine.execDly7 s
  | .xchg7 => Sys2Proof.Machine.execXchg7 s
  | .csd => Sys2Proof.Machine.execCsd s
  | .dec => Sys2Proof.Machine.execDec s
  | .frame f => Sys2Proof.Machine.execFrame f s

end Sys2Proof.Machine
end

