-- ==== Sys2Proof/Machine/Step.lean ====
section
/-! DEFINITION. One step at the architectural level (00_scope.md R6): one micro-operation of the sequencer, or one look
at the command port. -/

namespace Sys2Proof.Machine

/-- One step, in the order of precedence of 60_exceptions.md R98: reset; else, while BUSY = 1, the micro-operation that
`STEP` selects, the command port not being looked at (R60); else a command, if one is offered (R55). But for a reset, a
state whose `STEP` selects nothing is refused, idle or busy (R49). -/
def step (s : State) : Host.Outcome State Fault Refusal :=
  let u := s.popPorts
  if s.nextPorts.rst then .next (applyReset u)
  else
    match decode (.ustep s.regs.step) with
    | .error (.stepReserved v) => .refused (.stepReserved v)
    | .ok i =>
      if s.regs.busy then exec i u
      else if s.nextPorts.start then
        match decode (.cmd s.nextPorts.op) with
        | .ok c                    => exec c u
        | .error (.stepReserved v) => .refused (.stepReserved v)
      else .next (idle u)

/-- `s` with an item placed where the next step takes it from: a command on the command port of an idle machine, whose
`STEP` is 0 (R26); a step number in `STEP` of a busy one; a frame in the frame buffer of a machine at DEC (log 11). -/
def State.withItem (s : State) (e : Encoded) : State :=
  match e with
  | .cmd op =>
    { s with
      regs  := { s.regs with busy := false, step := 0 }
      ports := { rst := false, start := true, op := op } :: s.ports }
  | .ustep v =>
    { s with
      regs  := { s.regs with busy := true, step := v }
      ports := Ports.quiet :: s.ports }
  | .frame w =>
    { s with
      regs  := { s.regs with busy := true, step := 18, fb := unpackFrame w }
      ports := Ports.quiet :: s.ports }

/-- `s` with the instruction of a word of the opcode table placed where the next step takes it from (log 10, 11). -/
def State.withFetchWord (s : State) (nbits w : Nat) : State :=
  match tableItem nbits w with
  | some e => s.withItem e
  | none   => s

end Sys2Proof.Machine
end

