-- ==== Sys2Proof/Machine/Cycle.lean ====
section
/-! DEFINITION. The cycle level (41_transport_microops.md section 4): the complete next-state function of R71 at a
rising edge of `clk`, and the same over State, with the sensor of the state driving `miso_i`. -/

namespace Sys2Proof.Machine

/-- The inputs sampled at one rising edge (R24, R71). -/
structure CycleIn where
  host : Ports
  miso : Bool
deriving DecidableEq, Repr

/-- `CNT` as the register it is: `w` bits, `w` being `W_CNT` (R18). -/
def Regs.counter (w : Nat) (r : Regs) : BitVec w := BitVec.ofNat w r.cnt

/-- The number that the `W_CNT` bits of `CNT` hold. -/
def Regs.count (t : Timing) (r : Regs) : Nat := (r.counter t.wCnt).toNat

/-- `CNT + 1` in `W_CNT` bits (R18, R71). -/
def Regs.countUp (t : Timing) (r : Regs) : Nat := (r.counter t.wCnt + 1).toNat

/-- The bit engine of XCHG k in one cycle (R71, R73): p is the cycle inside the bit period of `2*H` cycles. `miso_i` is
shifted in as `sclk_o` rises, `sclk_o` falls at the period's end, and in the last cycle the byte goes to `FB[k]`. -/
def bitEngine (t : Timing) (k : Fin 8) (miso last : Bool) (r : Regs) : Regs :=
  let p := r.count t % (2 * t.h)
  { r with
    sclk := if p = 2 * t.h - 1 then false else if p = t.h - 1 then true else r.sclk
    sr   := if p = t.h - 1 then r.sr.extractLsb' 0 7 ++ BitVec.ofBool miso else r.sr
    fb   := if last then r.fb.set k r.sr else r.fb }

/-- One cycle of a micro-operation, before the counter (R71). -/
def microCycle (t : Timing) (m : Micro) (miso last : Bool) (r : Regs) : Regs :=
  match m with
  | .csa    => setSelect true r
  | .dly _  => r
  | .xchg k => bitEngine t k miso last r
  | .csd    => setSelect false r
  | .dec    => latchSample (fdDecode r.fb) r

/-- The complete next-state function of R71. But for a reset, registers whose `STEP` selects nothing are refused, idle or
busy (R49). -/
def cycle (t : Timing) (i : CycleIn) (r : Regs) : Host.Outcome Regs Fault Refusal :=
  if i.host.rst then .next Regs.reset
  else
    match decodeStep r.step with
    | none   => .refused (.stepReserved r.step)
    | some m =>
      if r.busy then
        if r.count t = microCycles t m - 1 then .next (endMicro (microCycle t m i.miso true r))
        else
          let u := microCycle t m i.miso false r
          .next { u with cnt := r.countUp t }
      else if i.host.start ∧ i.host.op ≠ 0 then .next (accept i.host.op r)
      else .next r

/-- As many edges as there are inputs. -/
def cycles (t : Timing) : List CycleIn → Regs → Host.Outcome Regs Fault Refusal
  | [], r      => .next r
  | i :: is, r =>
    match cycle t i r with
    | .next u    => cycles t is u
    | .fault e   => .fault e
    | .refused e => .refused e

/-- The byte that eight samples make, the first of them its bit 7 (R73). -/
def byteOfBits (m : Fin 8 → Bool) : Byte :=
  BitVec.ofNat 8 (((List.finRange 8).map fun b => (m b).toNat * 2 ^ (7 - b.val)).sum)

/-- The byte received by an exchange whose `16*H` cycles have these inputs: the b-th sampling edge is the one that ends
cycle `2*H*b + H - 1` of the exchange (R71, R73). -/
def receivedByte (t : Timing) (is : List CycleIn) : Byte :=
  byteOfBits fun b => (is.map CycleIn.miso).getD (2 * t.h * b.val + t.h - 1) false

/-- The level of `miso_i` in this cycle: the bit of the sensor's byte that is being clocked in (R34, R73). -/
def State.misoNow (t : Timing) (s : State) : Bool :=
  s.busAnswer.getMsbD (s.regs.count t / (2 * t.h))

/-- The exchange that ends in this cycle, if one does. -/
def State.exchangeEnding (t : Timing) (s : State) : Bool :=
  s.regs.busy &&
    match decodeStep s.regs.step with
    | some (.xchg _) => s.regs.count t == exchangeCycles t - 1
    | _              => false

/-- One cycle of the whole machine: R71 on the registers; the host's inputs from `ports`, `miso_i` from `sensor`; the
line events it causes are logged, and exactly one cycle passes. -/
def cycleStep (t : Timing) (s : State) : Host.Outcome State Fault Refusal :=
  match cycle t { host := s.nextPorts, miso := s.misoNow t } s.regs with
  | .fault e   => .fault e
  | .refused e => .refused e
  | .next r    =>
    let u : State := { (s.popPorts.setRegs r) with tick := s.tick + 1, time := s.time + 1 }
    let v := if r.cs != s.regs.cs then u.logWire (.select r.cs u.time) else u
    if s.nextPorts.rst then .next { v with sensor := sensorAfterReset s.regs.cs s.sensor }
    else if s.exchangeEnding t then
      .next (v.popSensor.logWire (.exchange Config.txFill s.regs.sr (u.time - exchangeCycles t) u.time))
    else .next v

end Sys2Proof.Machine
end

