-- ==== Sys2Proof/Machine/Script.lean ====
section
/-! DEFINITION. The script notation for host programs (30_encoding.md R51 to R53), in its architectural and its
cycle-level reading. Scripts are the host's; no part of SFR (D24). -/

namespace Sys2Proof.Machine

/-- A statement of the script notation (R51). -/
inductive Stmt where
  | start (op : BitVec 2)
  | wait
  | idle (n : Nat)
  | reset
  | sensor (f : Frame)
  | miso (level : Bool)
deriving DecidableEq, Repr

/-- The pseudo-statement of a command: NOP does not wait for the end, the others do (R52). -/
def pseudo (op : BitVec 2) : List Stmt :=
  if op = 0 then [.wait, .start op] else [.wait, .start op, .wait]

/-- The encoding of a script: the codes of its `START`s and the bytes of its `.sensor` lines (R53). -/
def encodeScript (p : List Stmt) : List (BitVec 2) × List Byte :=
  (p.filterMap fun | .start op => some op | _ => none,
   p.flatMap fun | .sensor f => f.toList | _ => [])

/-- One step in which the host drives `p`. -/
def drive (m : State → Host.Outcome State Fault Refusal) (p : Ports) (s : State) : Host.Outcome State Fault Refusal :=
  m { s with ports := p :: s.ports }

/-- `n` steps in which the host drives nothing. -/
def driveQuiet (m : State → Host.Outcome State Fault Refusal) : Nat → State → Host.Outcome State Fault Refusal
  | 0, s     => .next s
  | n + 1, s =>
    match drive m Ports.quiet s with
    | .next u    => driveQuiet m n u
    | .fault e   => .fault e
    | .refused e => .refused e

/-- `WAIT`: steps in which the host drives nothing, until BUSY = 0, at most `fuel` of them. -/
def waitIdle (m : State → Host.Outcome State Fault Refusal) : Nat → State → Host.Outcome State Fault Refusal
  | 0, s        => .next s
  | fuel + 1, s =>
    if s.regs.busy then
      match drive m Ports.quiet s with
      | .next u    => waitIdle m fuel u
      | .fault e   => .fault e
      | .refused e => .refused e
    else .next s

/-- One statement, over the steps of `m`, a command lasting at most `fuel` of them (R51). `.sensor` and `.miso` say
what the sensor answers from here on. R51 says "the next eight exchanges": DESIGN CHOICE (log 25), an exchange that is
under way when the line is reached counts as the first of them, its remaining bits coming from the line's byte 0. -/
def runStmt (m : State → Host.Outcome State Fault Refusal) (fuel : Nat) (c : Stmt) (s : State) :
    Host.Outcome State Fault Refusal :=
  match c with
  | .start op   => drive m { rst := false, start := true, op := op } s
  | .wait       => waitIdle m fuel s
  | .idle n     => driveQuiet m n s
  | .reset      => drive m { rst := true, start := false, op := 0 } s
  | .sensor f   => .next { s with sensor := .stream f.toList }
  | .miso level => .next { s with sensor := .stuck level }

/-- A script, statement by statement. -/
def runScript (m : State → Host.Outcome State Fault Refusal) (fuel : Nat) :
    List Stmt → State → Host.Outcome State Fault Refusal
  | [], s     => .next s
  | c :: p, s =>
    match runStmt m fuel c s with
    | .next u    => runScript m fuel p u
    | .fault e   => .fault e
    | .refused e => .refused e

/-- A script at the architectural level: no command has more than 19 micro-operations (R63). `IDLE n` is n steps of a
quiet host (log 17). -/
def runScriptArch (p : List Stmt) (s : State) : Host.Outcome State Fault Refusal := runScript step 19 p s

/-- A script at cycle level: no command lasts longer than a SAMPLE (R121). -/
def runScriptCycle (t : Timing) (p : List Stmt) (s : State) : Host.Outcome State Fault Refusal :=
  runScript (cycleStep t) (sampleCycles t) p s

end Sys2Proof.Machine
end

