-- ==== Sys2Proof/Machine/Ports.lean ====
section
/-! DEFINITION. The output ports (10_state.md R24, R25). -/

namespace Sys2Proof.Machine

/-- The output ports of R24. -/
structure Outputs where
  busyO  : Bool
  doneO  : Bool
  xO     : Half
  yO     : Half
  validO : Bool
  frameO : BitVec 64
  csNO   : Bool
  sclkO  : Bool
  mosiO  : Bool
  auxO   : Bool
deriving DecidableEq, Repr

/-- Every output port is a function of the registers (R25), `mosi_o` the constant 0 (R22); but `aux_o` is a free value
at every step (R23, U3; log 13). -/
def State.outputs (s : State) : Outputs where
  busyO  := s.regs.busy
  doneO  := s.regs.done
  xO     := s.regs.x
  yO     := s.regs.y
  validO := s.regs.valid
  frameO := packFrame s.regs.fb
  csNO   := if s.regs.cs then Config.csActive else !Config.csActive
  sclkO  := s.regs.sclk
  mosiO  := false
  auxO   := Config.auxLine s.tick

end Sys2Proof.Machine
end

