-- ==== Sys2Proof/Safety.lean ====
section
/-! DEFINITION. The terms of the claims: the invariants of 10_state.md R26 at both levels, and what the spec asks of the
host and of whoever chooses the parameters (70_reset_and_hazards.md R110 to R122). -/

namespace Sys2Proof.Machine

/-- R26 items 1 (without CNT and SCLK), 2, 3 and 4: what both levels share. -/
abbrev Regs.CoreInv (r : Regs) : Prop :=
  (r.busy = false → r.step = 0) ∧
  (r.busy = true → r.step.toNat ≤ 18 ∧ r.opr ≠ 0) ∧
  (r.busy = true → r.step.toNat ≤ 17 → r.opr.getLsbD 0 = true) ∧
  (r.busy = true → r.step = 18 → r.opr.getLsbD 1 = true) ∧
  (r.cs = true ↔ (r.busy = true ∧ 1 ≤ r.step.toNat ∧ r.step.toNat ≤ 17)) ∧
  ¬ (r.busy = true ∧ r.done = true)

/-- The invariant of the architectural level: R26, and between micro-operations the counter and the clock line are at
rest (R75). -/
abbrev Regs.ArchInv (r : Regs) : Prop := r.CoreInv ∧ r.cnt = 0 ∧ r.sclk = false

/-- The invariant of the cycle level: R26 with its items on CNT and SCLK, and CNT inside the duration of its step (R18). -/
abbrev Regs.CycleInv (t : Timing) (r : Regs) : Prop :=
  r.CoreInv ∧
  (r.busy = false → r.cnt = 0 ∧ r.sclk = false) ∧
  (∀ m, r.busy = true → decodeStep r.step = some m → r.cnt < microCycles t m) ∧
  (r.sclk = true → ∃ k, decodeStep r.step = some (.xchg k))

/-- The three result registers together, as (X, Y, VALID). -/
def Regs.sample (r : Regs) : Sample where
  x     := r.x
  y     := r.y
  valid := r.valid

/-- The micro-operation that a step from here runs, if it runs one: BUSY = 1, `STEP` selects it and no reset is on
(R98). -/
def State.running (s : State) : Option Micro :=
  if s.nextPorts.rst then none else if s.regs.busy then decodeStep s.regs.step else none

/-- What a host may use as a sample: results of a finished command, marked valid (R110 (d), R111, R113). -/
def Regs.usable (r : Regs) : Bool := !r.busy && r.valid

/-- No reset in the first `n` of the steps to come. -/
abbrev State.NoReset (n : Nat) (s : State) : Prop := ∀ p ∈ s.ports.take n, p.rst = false

/-- `n` steps of the machine, stopping at the first refusal (there is no fault). -/
def runs : Nat → State → Host.Outcome State Fault Refusal
  | 0, s     => .next s
  | n + 1, s =>
    match step s with
    | .next u    => runs n u
    | .fault e   => .fault e
    | .refused e => .refused e

/-- An idle machine: BUSY = 0, and `STEP` one of the values that mean something. (In every reachable idle state it is 0,
R26; with a value of 19 to 31 the state is refused, R49.) -/
abbrev Regs.Idle (r : Regs) : Prop := r.busy = false ∧ r.step.toNat ≤ 18

/-- The host offers the command `op` to an idle machine, and drives no reset in the next `n` steps (R55). -/
abbrev State.Offered (op : BitVec 2) (n : Nat) (s : State) : Prop :=
  s.regs.Idle ∧ s.nextPorts = { rst := false, start := true, op := op } ∧ s.NoReset n

/-- A step from here writes X, Y and VALID: a reset does, and DEC does (R12, R107). -/
def State.writesSample (s : State) : Bool := s.nextPorts.rst || s.running == some Micro.dec

/-- No reset at any edge. -/
abbrev NoResetIn (is : List CycleIn) : Prop := ∀ i ∈ is, i.host.rst = false

/-- A transport command, READ_RAW or SAMPLE, is offered at an edge with no reset (R47, R55). -/
abbrev CycleIn.OffersTransport (i : CycleIn) : Prop :=
  i.host.rst = false ∧ i.host.start = true ∧ i.host.op.getLsbD 0 = true

/-- The cadence of the original: a SAMPLE well inside 10 ms, `DUR(SAMPLE) / F_CLK_HZ < 0.010 s` (R116). Asked of the
parameters, not of SFR. -/
abbrev Timing.MeetsCadence (t : Timing) (fClkHz : Nat) : Prop := 100 * sampleCycles t < fClkHz

/-- A read cycle dominated by the delays: `S + G > 128*H` (R122). Asked of faithful parameters, not of SFR. -/
abbrev Timing.DelaysDominate (t : Timing) : Prop := 128 * t.h < t.nSettle + holdSum t 7

end Sys2Proof.Machine
end

