-- ==== Sys2Proof/Certificates/Slice0/Obligations.lean ====
section
/-! DEFINITION. The statements. Each docstring names the rule of spec/ it states. Where a clause is about a field of the
model's own (`time`, `tick`, `wire`, `sensor`, `ports`), it is the model's record of the spec's words, as the log says. -/

open Sys2Proof Sys2Proof.Machine

/-! ### Encodings -/

/-- Decoding the encoding of an instruction gives it back, for every instruction and every frame, and the encoding is
well-formed (R44, R47, R48, R63). -/
def Obligations.DecodeOfEncodeIsIdentity : Prop :=
  ∀ i : Instr, decode (encode i) = .ok i ∧ (encode i).wellFormed = true

/-- An encoded item decodes exactly when it is well-formed, and then it is the encoding of what it decodes to: no two
items have one meaning, and only `STEP` 19 to 31 have none (R46, R47, R48, R49). -/
def Obligations.EachEncodingHasOneMeaning : Prop :=
  ∀ e : Encoded, (e.wellFormed = true ↔ ∃ i, decode e = .ok i) ∧ ∀ i, decode e = .ok i → encode i = e

/-- Words written out from R44, R47 and R63 decode to what those tables say. -/
def Obligations.SpecWordsDecode : Prop :=
  decode (.cmd 0b00) = .ok .nop ∧ decode (.cmd 0b01) = .ok .readRaw ∧
  decode (.cmd 0b10) = .ok .decode ∧ decode (.cmd 0b11) = .ok .sample ∧
  decode (.ustep 0b00000) = .ok .csa ∧ decode (.ustep 0b00001) = .ok .dly0 ∧
  decode (.ustep 0b01011) = .ok .dly5 ∧ decode (.ustep 0b01010) = .ok .xchg4 ∧
  decode (.ustep 0b10000) = .ok .xchg7 ∧ decode (.ustep 0b10001) = .ok .csd ∧
  decode (.ustep 0b10010) = .ok .dec ∧
  decode (.frame 0x14000056781234FF) = .ok (.frame #v[255, 0x34, 0x12, 0x78, 0x56, 0, 0, 0x14])

/-- R91: FD alone, on an input packed like `frame_o`, gives X as bits 23 to 8, Y as bits 39 to 24, and validity by its
three tests on slices of the input; that is what `decode` gives on the frame. -/
def Obligations.DecoderAloneAgreesOnPackedInput : Prop :=
  (∀ w : BitVec 64,
    (fdAlone w).x = w.extractLsb' 8 16 ∧ (fdAlone w).y = w.extractLsb' 24 16 ∧
    ((fdAlone w).valid = true ↔ w.extractLsb' 0 8 = 0xFF ∧ w.extractLsb' 40 16 = 0 ∧
      ((w.extractLsb' 8 8).toNat + (w.extractLsb' 16 8).toNat + (w.extractLsb' 24 8).toNat +
        (w.extractLsb' 32 8).toNat) % 256 = (w.extractLsb' 56 8).toNat) ∧
    fdAlone w = fdDecode (unpackFrame w)) ∧
  ∀ f : Frame, fdAlone (packFrame f) = fdDecode f

/-! ### The function `decode` -/

/-- R82 and R83: X is byte 1 plus 256 times byte 2, Y byte 3 plus 256 times byte 4, whatever the other bytes are; the
sign of each is bit 7 of its high byte. -/
def Obligations.FieldsAreLittleEndianSigned : Prop :=
  ∀ f : Frame,
    (fdDecode f).x.toNat = f[1].toNat + 256 * f[2].toNat ∧
    (fdDecode f).y.toNat = f[3].toNat + 256 * f[4].toNat ∧
    (signed16 (fdDecode f).x < 0 ↔ f[2].getLsbD 7 = true) ∧
    (signed16 (fdDecode f).y < 0 ↔ f[4].getLsbD 7 = true)

/-- R33: `MemRead(k, 2)` is byte k plus 256 times byte k+1, and X is `MemRead(1, 2)`, Y `MemRead(3, 2)`. -/
def Obligations.FieldsAreMemReads : Prop :=
  (∀ (f : Frame) (k : Nat) (h : k + 2 ≤ 8), memRead f k 2 h = f[k].toNat + 256 * f[k + 1].toNat) ∧
  ∀ f : Frame, (fdDecode f).x.toNat = memRead f 1 2 (by decide) ∧ (fdDecode f).y.toNat = memRead f 3 2 (by decide)

/-- R84: the checksum is the sum of the four payload bytes as unsigned values, reduced modulo 256; unreduced it is at
most 1020. -/
def Obligations.ChecksumIsSumModulo256 : Prop :=
  ∀ f : Frame,
    (payloadSum f).toNat = (f[1].toNat + f[2].toNat + f[3].toNat + f[4].toNat) % 256 ∧
    f[1].toNat + f[2].toNat + f[3].toNat + f[4].toNat ≤ 1020 ∧
    (checksumOk f = true ↔ (f[1].toNat + f[2].toNat + f[3].toNat + f[4].toNat) % 256 = f[7].toNat)

/-- R86: a frame is valid if and only if its marker, its reserved bytes and its checksum are right. -/
def Obligations.ValidIffMarkerReservedChecksum : Prop :=
  ∀ f : Frame, (fdDecode f).valid = true ↔
    f[0].toNat = 255 ∧ f[5].toNat = 0 ∧ f[6].toNat = 0 ∧
    (f[1].toNat + f[2].toNat + f[3].toNat + f[4].toNat) % 256 = f[7].toNat

/-- The signed reading is two's complement, which the spec supplies from general knowledge (R87, D17; log 21). -/
def Obligations.SignedReadingIsTwosComplement : Prop :=
  ∀ v : Half, signed16 v = v.toInt ∧ -32768 ≤ signed16 v ∧ signed16 v ≤ 32767 ∧
    (v.toNat ≤ 0x7FFF → signed16 v = v.toNat)

/-- What the spec derives in R89: `decode` of the reference frame of (x, y) is (x, y, 1), and every valid frame is the reference frame of exactly
one pair. -/
def Obligations.ValidFramesAreReferenceFrames : Prop :=
  (∀ x y : Half, fdDecode (refFrame x y) = { x := x, y := y, valid := true }) ∧
  ∀ f : Frame, (fdDecode f).valid = true →
    refFrame (fdDecode f).x (fdDecode f).y = f ∧
    ∀ x y : Half, refFrame x y = f → x = (fdDecode f).x ∧ y = (fdDecode f).y

/-- What the spec derives in R46: exactly 2^32 frames are valid. -/
def Obligations.ExactlyTwoPow32ValidFrames : Prop :=
  Nat.card { f : Frame // (fdDecode f).valid = true } = 2 ^ 32

/-- What the spec derives in R90 (a), (b): changing exactly one byte of a valid frame makes it invalid. -/
def Obligations.SingleByteErrorIsCaught : Prop :=
  ∀ (f : Frame) (k : Fin 8) (b : Byte), (fdDecode f).valid = true → b ≠ f[k] →
    (fdDecode (f.set k b)).valid = false

/-- What the spec derives in R90 (c): changes of payload bytes whose differences add up to 0 modulo 256 leave a valid frame valid, and the sample
is another one if any payload byte differs. -/
def Obligations.CompensatingErrorsPass : Prop :=
  ∀ f g : Frame, (fdDecode f).valid = true →
    g[0] = f[0] → g[5] = f[5] → g[6] = f[6] → g[7] = f[7] →
    (g[1] - f[1]) + (g[2] - f[2]) + (g[3] - f[3]) + (g[4] - f[4]) = 0 →
    (fdDecode g).valid = true ∧ (g ≠ f → (fdDecode g).x ≠ (fdDecode f).x ∨ (fdDecode g).y ≠ (fdDecode f).y)

/-! ### Host commands -/

/-- R55: an offered command other than NOP is accepted by an idle machine: OPR, BUSY, DONE, STEP and CNT as the rule
says, no other register; the inputs of the step are spent, and the first micro-operation runs in the following step.
With `start_i = 0` no register changes, whatever `op_i` is. -/
def Obligations.AcceptanceLoadsTheSequencer : Prop :=
  (∀ s : State, s.nextPorts.rst = false → s.regs.Idle → s.nextPorts.start = false →
    ∃ t, step s = .next t ∧ t.regs = s.regs) ∧
  ∀ s : State, s.nextPorts.rst = false → s.regs.Idle → s.nextPorts.start = true → s.nextPorts.op ≠ 0 →
    ∃ t, step s = .next t ∧
      t.regs = { s.regs with
        opr  := s.nextPorts.op
        busy := true
        done := false
        step := if s.nextPorts.op.getLsbD 0 then 0 else 18
        cnt  := 0 } ∧
      t.ports = s.ports.tail ∧ t.sensor = s.sensor ∧ t.wire = s.wire ∧
      (t.nextPorts.rst = false → step t = exec (if s.nextPorts.op.getLsbD 0 then .csa else .dec) t.popPorts)

/-- READ_RAW, DECODE and SAMPLE complete on every idle machine: what each does in its own step (R55, R57, R58, R59).
Nothing but the registers named changes, save that the step takes time. -/
def Obligations.TransportAndDecodeCommandsStart : Prop :=
  ∀ s : State, s.regs.busy = false →
    exec .readRaw s =
      .next { s.elapse 1 with regs := { s.regs with opr := 0b01, busy := true, done := false, step := 0, cnt := 0 } } ∧
    exec .decode s =
      .next { s.elapse 1 with regs := { s.regs with opr := 0b10, busy := true, done := false, step := 18, cnt := 0 } } ∧
    exec .sample s =
      .next { s.elapse 1 with regs := { s.regs with opr := 0b11, busy := true, done := false, step := 0, cnt := 0 } }

/-- R56: NOP changes no register, offered to an idle machine or to a busy one; a step in which it is offered is the same
as one with `start_i = 0`. -/
def Obligations.NopChangesNoRegister : Prop :=
  ∀ s : State, (s.regs.busy = false → exec .nop s = .next (s.elapse 1)) ∧
    (s.regs.busy = true → exec .nop s = .next s) ∧ (∀ n, (s.elapse n).regs = s.regs) ∧
    ∀ op, step { s with ports := { rst := false, start := true, op := 0b00 } :: s.ports } =
      step { s with ports := { rst := false, start := false, op := op } :: s.ports }

/-- R60: what the host offers while BUSY = 1 has no influence on the step; a command is not queued or recorded, and
executing one then changes nothing. -/
def Obligations.OffersWhileBusyAreIgnored : Prop :=
  (∀ (s : State) (p q : Ports), s.regs.busy = true → p.rst = false → q.rst = false →
    step { s with ports := p :: s.ports } = step { s with ports := q :: s.ports }) ∧
  ∀ s : State, s.regs.busy = true →
    ∀ i ∈ [Instr.nop, .readRaw, .decode, .sample], exec i s = .next s

/-! ### Micro-operations -/

/-- R64: CSA sets CS and goes on to step 1, for every state at step 0; every other register is unchanged. The line falls
at the end of the step, which at cycle level is one cycle; CS was 0 before. -/
def Obligations.CsaAssertsChipSelect : Prop :=
  (∀ s : State, s.regs.step = 0 →
    ∃ t, exec .csa s = .next t ∧ t.regs = { s.regs with cs := true, step := 1, cnt := 0 } ∧
      t.wire = .select true t.time :: s.wire ∧ s.time + 1 ≤ t.time ∧ t.sensor = s.sensor ∧ t.ports = s.ports) ∧
  (∀ (t : Timing) (i : CycleIn) (r : Regs), i.host.rst = false → r.busy = true → r.step = 0 → r.cnt = 0 →
    cycle t i r = .next { r with cs := true, step := 1, cnt := 0 }) ∧
  ∀ r : Regs, r.CoreInv → r.step = 0 → r.cs = false

/-- R67: CSD clears CS; with OPR[1] = 0 (READ_RAW) the command completes in the same step, otherwise DEC is next. At
cycle level that is one cycle. It follows XCHG 7 with nothing between. -/
def Obligations.CsdDeassertsChipSelect : Prop :=
  (∀ s : State, s.regs.step = 17 →
    ∃ t, exec .csd s = .next t ∧
      t.regs = (if s.regs.opr.getLsbD 1 then { s.regs with cs := false, step := 18, cnt := 0 }
        else { s.regs with cs := false, busy := false, done := true, step := 0, cnt := 0 }) ∧
      t.wire = .select false t.time :: s.wire ∧ s.time + 1 ≤ t.time ∧ t.sensor = s.sensor ∧ t.ports = s.ports) ∧
  (∀ (t : Timing) (i : CycleIn) (r : Regs), i.host.rst = false → r.busy = true → r.step = 17 → r.cnt = 0 →
    cycle t i r = .next (if r.opr.getLsbD 1 then { r with cs := false, step := 18, cnt := 0 }
      else { r with cs := false, busy := false, done := true, step := 0, cnt := 0 })) ∧
  ∀ s : State, s.regs.step = 16 → ∃ t, exec .xchg7 s = .next t ∧ t.regs.step = 17

/-- R65: DLY n at its step changes no register but the sequencer's own, nothing on the lines, and at least its delay
passes: `N_SETTLE` cycles for DLY 0, `N_HOLD[n-1]` for DLY n. At cycle level it takes exactly so many cycles, and until
then only CNT changes. -/
def Obligations.DelaysOnlyPassTime : Prop :=
  (∀ (t : Timing) (is : List CycleIn) (r : Regs) (n : Fin 8), t.Ok → NoResetIn is → r.busy = true →
    r.step.toNat = 2 * n.val + 1 → r.cnt = 0 →
    let d := #v[t.nSettle, t.nHold[0], t.nHold[1], t.nHold[2], t.nHold[3], t.nHold[4], t.nHold[5], t.nHold[6]][n]
    (is.length < d → cycles t is r = .next { r with cnt := is.length }) ∧
    (is.length = d → cycles t is r = .next { r with step := BitVec.ofNat 5 (2 * n.val + 2), cnt := 0 })) ∧
  ∀ (s : State) (n : Fin 8), s.regs.step.toNat = 2 * n.val + 1 →
    ∃ t, exec (#v[Instr.dly0, .dly1, .dly2, .dly3, .dly4, .dly5, .dly6, .dly7][n]) s = .next t ∧
      t.regs = { s.regs with step := BitVec.ofNat 5 (2 * n.val + 2), cnt := 0 } ∧
      t.wire = s.wire ∧ t.sensor = s.sensor ∧ t.ports = s.ports ∧
      s.time + (#v[Config.timing.nSettle, Config.timing.nHold[0], Config.timing.nHold[1], Config.timing.nHold[2],
        Config.timing.nHold[3], Config.timing.nHold[4], Config.timing.nHold[5], Config.timing.nHold[6]][n]) ≤ t.time

/-- R66: XCHG k at its step sends 0x00 and stores the byte the sensor answers in `FB[k]`, whatever the byte is; the other
bytes of `FB` and every other register keep their values. SR and SCLK are as the cycle level leaves them (R19, R21,
R75; log 6). -/
def Obligations.ExchangeStoresTheAnsweredByte : Prop :=
  ∀ (s : State) (k : Fin 8), s.regs.step.toNat = 2 * k.val + 2 →
    ∃ t, exec (#v[Instr.xchg0, .xchg1, .xchg2, .xchg3, .xchg4, .xchg5, .xchg6, .xchg7][k]) s = .next t ∧
      t.regs = { s.regs with
        fb   := s.regs.fb.set k s.busAnswer
        sr   := s.busAnswer
        sclk := false
        step := BitVec.ofNat 5 (2 * k.val + 3)
        cnt  := 0 } ∧
      t.wire = .exchange 0 s.busAnswer s.time t.time :: s.wire ∧ s.time ≤ t.time ∧ t.ports = s.ports ∧
      ∀ b q, s.sensor = .stream (b :: q) → s.busAnswer = b ∧ t.sensor = .stream q

/-- R80: DEC at its step writes X, Y and VALID from the frame buffer, valid or not, and the command completes; `FB`, CS
and every other register keep their values. At cycle level that is one cycle. -/
def Obligations.DecWritesTheSample : Prop :=
  (∀ (t : Timing) (i : CycleIn) (r : Regs), i.host.rst = false → r.busy = true → r.step = 18 → r.cnt = 0 →
    cycle t i r = .next { r with
      x := (fdDecode r.fb).x, y := (fdDecode r.fb).y, valid := (fdDecode r.fb).valid,
      busy := false, done := true, step := 0, cnt := 0 }) ∧
  ∀ s : State, s.regs.step = 18 →
    ∃ t, exec .dec s = .next t ∧
      t.regs = { s.regs with
        x     := s.regs.fb[1].setWidth 16 + 256 * s.regs.fb[2].setWidth 16
        y     := s.regs.fb[3].setWidth 16 + 256 * s.regs.fb[4].setWidth 16
        valid := s.regs.fb[0] == 255 && (s.regs.fb[5] == 0 && s.regs.fb[6] == 0) &&
          s.regs.fb[1] + s.regs.fb[2] + s.regs.fb[3] + s.regs.fb[4] == s.regs.fb[7]
        busy  := false
        done  := true
        step  := 0
        cnt   := 0 } ∧
      t.wire = s.wire ∧ t.sensor = s.sensor ∧ t.ports = s.ports

/-- R61 and R68: sequencing. At the end of the micro-operation at `STEP`, whatever the data: step 18, and step 17 with
OPR[1] = 0, complete the command; any other goes on to the next step. OPR keeps its value, and a new command can be
accepted in the step after a completion. -/
def Obligations.SequencingFollowsTheStepNumber : Prop :=
  ∀ (s : State) (m : Micro), s.regs.busy = true → decodeStep s.regs.step = some m →
    ∃ t, exec m.toInstr s = .next t ∧ t.regs.opr = s.regs.opr ∧ t.regs.cnt = 0 ∧
      (s.regs.step = 18 ∨ (s.regs.step = 17 ∧ s.regs.opr.getLsbD 1 = false) →
        t.regs.busy = false ∧ t.regs.done = true ∧ t.regs.step = 0 ∧
        (t.nextPorts.rst = false → t.nextPorts.start = true → t.nextPorts.op ≠ 0 →
          ∃ u, step t = .next u ∧ u.regs = accept t.nextPorts.op t.regs)) ∧
      (¬ (s.regs.step = 18 ∨ (s.regs.step = 17 ∧ s.regs.opr.getLsbD 1 = false)) →
        t.regs.busy = true ∧ t.regs.done = s.regs.done ∧ t.regs.step = s.regs.step + 1)

/-- The FRAME row (R46): on any frame the decoder writes X and Y from bytes 1 to 4, and VALID is 1 when the frame passes
the three tests and 0 when it does not; nothing else changes. That the row is executed as a classification on its own is
the model's choice (log 9). -/
def Obligations.FrameIsClassified : Prop :=
  ∀ (s : State) (f : Frame),
    ∃ t, exec (.frame f) s = .next t ∧ t = { s with regs := { s.regs with
        x     := f[1].setWidth 16 + 256 * f[2].setWidth 16
        y     := f[3].setWidth 16 + 256 * f[4].setWidth 16
        valid := t.regs.valid } } ∧
      (t.regs.valid = true ↔ f[0].toNat = 255 ∧ f[5].toNat = 0 ∧ f[6].toNat = 0 ∧
        (f[1].toNat + f[2].toNat + f[3].toNat + f[4].toNat) % 256 = f[7].toNat)

/-! ### The step -/

/-- A step with no reset runs exec of the instruction decoded from `STEP` while BUSY = 1, and of the command decoded from
`op_i` when one is offered to an idle machine, at the state whose inputs of this step are spent. At DEC it runs the
FRAME in the frame buffer and completes (R48, R55, R63, R80). -/
def Obligations.StepRunsTheDecodedInstruction : Prop :=
  (∀ (s : State) (i : Instr), s.nextPorts.rst = false → s.regs.busy = true →
    decode (.ustep s.regs.step) = .ok i → step s = exec i s.popPorts) ∧
  (∀ (s : State) (i : Instr), s.nextPorts.rst = false → s.regs.Idle → s.nextPorts.start = true →
    decode (.cmd s.nextPorts.op) = .ok i → step s = exec i s.popPorts) ∧
  ∀ s : State, s.nextPorts.rst = false → s.regs.busy = true → s.regs.step = 18 →
    ∃ t u, exec (.frame s.regs.fb) s.popPorts = .next t ∧ step s = .next u ∧ u.regs = complete t.regs

/-- R49 (U5): a state whose `STEP` is 19 to 31 is refused by name at both levels, idle or busy, unless a reset is on. -/
def Obligations.ReservedStepIsRefused : Prop :=
  (∀ s : State, s.nextPorts.rst = false → 19 ≤ s.regs.step.toNat → step s = .refused (.stepReserved s.regs.step)) ∧
  ∀ (t : Timing) (i : CycleIn) (r : Regs), i.host.rst = false → 19 ≤ r.step.toNat →
    cycle t i r = .refused (.stepReserved r.step)

/-- With nothing offered an idle machine keeps all its state (R103). -/
def Obligations.IdleKeepsAllState : Prop :=
  ∀ s : State, s.nextPorts.rst = false → s.regs.Idle →
    (s.nextPorts.start = false ∨ s.nextPorts.op = 0) →
    ∃ t, step s = .next t ∧ t.regs = s.regs ∧ t.sensor = s.sensor ∧ t.wire = s.wire

/-- R107: a reset gives every register its reset value, whatever the state is and whatever else is offered, at both
levels; the lines are at rest after it. -/
def Obligations.ResetOverridesEverything : Prop :=
  (∀ s : State, s.nextPorts.rst = true →
    ∃ t, step s = .next t ∧
      t.regs = { fb := #v[0, 0, 0, 0, 0, 0, 0, 0], x := 0, y := 0, valid := false, busy := false, done := false,
                 opr := 0, step := 0, cnt := 0, sr := 0, cs := false, sclk := false } ∧
      t.outputs.csNO = true ∧ t.outputs.sclkO = false ∧ t.outputs.mosiO = false) ∧
  ∀ (t : Timing) (i : CycleIn) (r : Regs), i.host.rst = true →
    cycle t i r = .next
      { fb := #v[0, 0, 0, 0, 0, 0, 0, 0], x := 0, y := 0, valid := false, busy := false, done := false,
        opr := 0, step := 0, cnt := 0, sr := 0, cs := false, sclk := false }

/-- R108: a reset ends a read cycle: chip-select rises in the middle of the frame, no partial frame survives and no
completion is shown. That nothing is assumed of the sensor's answers afterwards is the model's reading (U11; log 15). -/
def Obligations.ResetCutsAReadCycleShort : Prop :=
  ∀ s : State, s.nextPorts.rst = true →
    ∃ t, step s = .next t ∧ t.regs.fb = Vector.replicate 8 0 ∧ t.regs.busy = false ∧ t.regs.done = false ∧
      (s.regs.cs = true → t.wire = .select false t.time :: s.wire) ∧ (s.regs.cs = false → t.wire = s.wire) ∧
      (s.regs.cs = true → ∀ q, s.sensor = .stream q → t.sensor = .stream []) ∧
      (s.regs.cs = false ∨ (∃ level, s.sensor = .stuck level) → t.sensor = s.sensor)

/-- The reset column of R10, and what the spec derives in R26 item 7: the registers of the reset state, and that its triple is `decode` of its frame buffer. -/
def Obligations.ResetStateIsTheTable : Prop :=
  State.reset.regs = { fb := #v[0, 0, 0, 0, 0, 0, 0, 0], x := 0, y := 0, valid := false, busy := false, done := false,
                       opr := 0, step := 0, cnt := 0, sr := 0, cs := false, sclk := false } ∧
  State.reset.regs.sample = fdDecode State.reset.regs.fb

/-- An item placed by `withItem` is what the next step runs (log 11): a command or a step number through exec, a frame
through DEC. -/
def Obligations.PlacedItemRunsNext : Prop :=
  ∀ (s : State),
    (∀ (op : BitVec 2) (i : Instr), decode (.cmd op) = .ok i →
      step (s.withItem (.cmd op)) = exec i (s.withItem (.cmd op)).popPorts) ∧
    (∀ (v : BitVec 5) (i : Instr), decode (.ustep v) = .ok i →
      step (s.withItem (.ustep v)) = exec i (s.withItem (.ustep v)).popPorts) ∧
    ∀ (w : BitVec 64) (f : Frame), decode (.frame w) = .ok (.frame f) →
      ∃ t u, exec (.frame f) (s.withItem (.frame w)).popPorts = .next t ∧
        step (s.withItem (.frame w)) = .next u ∧ u.regs = complete t.regs

/-! ### Frames and whole-machine rules -/

/-- The "written by" column of R10, for every instruction and every register: which instructions may change it. BUSY,
DONE, STEP and CNT, which acceptance, every micro-operation and completion write, are changed by a command other than NOP
or by a micro-operation, never by NOP or a FRAME. -/
def Obligations.RegistersChangeOnlyByTheirWriters : Prop :=
  ∀ (i : Instr) (s t : State), exec i s = .next t →
    (∀ k : Fin 8, t.regs.fb[k] ≠ s.regs.fb[k] → i = (Micro.xchg k).toInstr) ∧
    (t.regs.sample ≠ s.regs.sample → i = .dec ∨ ∃ f, i = .frame f) ∧
    (t.regs.cs ≠ s.regs.cs → i = .csa ∨ i = .csd) ∧
    (t.regs.opr ≠ s.regs.opr → i = .readRaw ∨ i = .decode ∨ i = .sample) ∧
    (t.regs.sr ≠ s.regs.sr ∨ t.regs.sclk ≠ s.regs.sclk ∨ t.sensor ≠ s.sensor → ∃ k, i = (Micro.xchg k).toInstr) ∧
    (t.regs.busy ≠ s.regs.busy ∨ t.regs.done ≠ s.regs.done ∨ t.regs.step ≠ s.regs.step ∨ t.regs.cnt ≠ s.regs.cnt →
      i ≠ .nop ∧ ∀ f, i ≠ .frame f) ∧
    (t.wire ≠ s.wire → i = .csa ∨ i = .csd ∨ ∃ k, i = (Micro.xchg k).toInstr) ∧
    t.ports = s.ports

/-- R12, R13: X, Y and VALID are written only by DEC, all three together from the frame buffer, and by reset. -/
def Obligations.SampleIsWrittenOnlyByDec : Prop :=
  ∀ s t : State, step s = .next t →
    (s.writesSample = false → t.regs.sample = s.regs.sample) ∧
    (s.nextPorts.rst = true → t.regs.sample = { x := 0, y := 0, valid := false }) ∧
    (s.running = some .dec → t.regs.sample = fdDecode s.regs.fb)

/-- R11: a byte of the frame buffer is written only by its own exchange, with the byte the sensor answered, and by reset;
the host cannot write it. -/
def Obligations.FrameBufferIsWrittenOnlyByExchange : Prop :=
  ∀ (s t : State) (k : Fin 8), step s = .next t → s.nextPorts.rst = false →
    t.regs.fb[k] = if s.running = some (.xchg k) then s.busAnswer else s.regs.fb[k]

/-- What the spec derives in R26 item 6, over a run of any length from any state: the triple is what it was, or what the last step that wrote it
left: the reset triple, or `decode` of what `FB` held at the most recent DEC. -/
def Obligations.SampleIsThatOfTheLastDec : Prop :=
  ∀ (n : Nat) (s t : State), runs n s = .next t →
    ((∀ j < n, ∀ u, runs j s = .next u → u.writesSample = false) ∧ t.regs.sample = s.regs.sample) ∨
    ∃ j < n, ∃ u, runs j s = .next u ∧ u.writesSample = true ∧
      (∀ i, j < i → i < n → ∀ v, runs i s = .next v → v.writesSample = false) ∧
      t.regs.sample = if u.nextPorts.rst then { x := 0, y := 0, valid := false } else fdDecode u.regs.fb

/-- R93: no instruction ends in a fault or a refusal. -/
def Obligations.EveryInstructionCompletes : Prop :=
  ∀ (i : Instr) (s : State), ∃ t, exec i s = .next t

/-! ### Invariants -/

/-- What the spec derives in R26, architectural level: every step from a state that meets the invariant answers a next state that meets it. -/
def Obligations.StepKeepsTheInvariant : Prop :=
  ∀ s : State, s.regs.ArchInv → ∃ t, step s = .next t ∧ t.regs.ArchInv

/-- What the spec derives in R26, cycle level: every edge, whatever the inputs, answers registers that meet the invariant. -/
def Obligations.EdgeKeepsTheInvariant : Prop :=
  ∀ (t : Timing) (i : CycleIn) (r : Regs), t.Ok → r.CycleInv t → ∃ u, cycle t i r = .next u ∧ u.CycleInv t

/-- The reset state meets both invariants (R26, R107). -/
def Obligations.ResetMeetsTheInvariants : Prop :=
  State.reset.regs.ArchInv ∧ ∀ t : Timing, State.reset.regs.CycleInv t

/-- R7, R18: the counter has at least the width that R7 derives, and what it counts fits that width: its `W_CNT` bits
hold the number of R18, and counting on in a busy cycle that is not the last of its step does not wrap. -/
def Obligations.CounterFitsItsWidth : Prop :=
  ∀ (t : Timing) (r : Regs), t.Ok → r.CycleInv t →
    counterWidth t ≤ t.wCnt ∧ r.cnt < 2 ^ counterWidth t ∧ r.count t = r.cnt ∧
    ∀ m, r.busy = true → decodeStep r.step = some m → r.count t ≠ microCycles t m - 1 → r.countUp t = r.cnt + 1

/-- The machine's open timing parameters satisfy the constraints of R7; that they are built so is the model's choice (log 8). -/
def Obligations.OpenParametersAreAdmissible : Prop := Config.timing.Ok

/-! ### Whole commands -/

/-- R57: an offered READ_RAW, left to run with no reset, is complete after its acceptance and eighteen micro-operations,
with the sensor's next eight answers in `FB`, in order; X, Y and VALID keep their values. SR and SCLK are as the cycle
level leaves them (log 6). -/
def Obligations.ReadRawFillsTheFrameBuffer : Prop :=
  ∀ (s : State) (b : Frame) (q : List Byte), s.Offered 0b01 19 → s.sensor = .stream (b.toList ++ q) →
    ∃ t, runs 19 s = .next t ∧ t.sensor = .stream q ∧
      t.regs = { s.regs with
        fb := b, busy := false, done := true, opr := 0b01, step := 0, cnt := 0, sr := b[7], cs := false, sclk := false }

/-- R58: an offered DECODE is complete after its acceptance and DEC: the triple is `decode` of `FB`, which is unchanged,
and the bus is not touched; a second DECODE gives the same again; on the reset buffer it gives (0, 0, 0). -/
def Obligations.DecodeCommandDecodesTheBuffer : Prop :=
  fdDecode (Vector.replicate 8 0) = { x := 0, y := 0, valid := false } ∧
  ∀ s : State, s.Offered 0b10 2 →
    ∃ t, runs 2 s = .next t ∧ t.sensor = s.sensor ∧ t.wire = s.wire ∧
      t.regs = { s.regs with
        x := (fdDecode s.regs.fb).x, y := (fdDecode s.regs.fb).y, valid := (fdDecode s.regs.fb).valid,
        busy := false, done := true, opr := 0b10, step := 0, cnt := 0 } ∧
      (t.Offered 0b10 2 → ∃ u, runs 2 t = .next u ∧ u.regs = t.regs)

/-- R59: an offered SAMPLE, left to run with no reset, is complete after its acceptance and nineteen micro-operations:
`FB` holds the sensor's next eight answers and (X, Y, VALID) is their `decode`. SR and SCLK are as the cycle level
leaves them (log 6). -/
def Obligations.SampleReadsAndDecodes : Prop :=
  ∀ (s : State) (b : Frame) (q : List Byte), s.Offered 0b11 20 → s.sensor = .stream (b.toList ++ q) →
    ∃ t, runs 20 s = .next t ∧ t.sensor = .stream q ∧
      t.regs = { s.regs with
        fb := b, x := (fdDecode b).x, y := (fdDecode b).y, valid := (fdDecode b).valid,
        busy := false, done := true, opr := 0b11, step := 0, cnt := 0, sr := b[7], cs := false, sclk := false }

/-- What the spec derives in R62: SAMPLE ends in the registers that READ_RAW and then DECODE end in on the same eight bytes, but for OPR. -/
def Obligations.SampleEqualsReadRawThenDecode : Prop :=
  ∀ (s : State) (b : Frame) (q : List Byte), s.regs.Idle → s.sensor = .stream (b.toList ++ q) →
    ∃ t u,
      runs 20 { s with ports := [{ rst := false, start := true, op := 0b11 }] } = .next t ∧
      runs 21 { s with ports := { rst := false, start := true, op := 0b01 } ::
        (List.replicate 18 Ports.quiet ++ [{ rst := false, start := true, op := 0b10 }]) } = .next u ∧
      { t.regs with opr := 0b10 } = u.regs ∧ t.regs.opr = 0b11 ∧ t.sensor = u.sensor

/-- What the spec derives in R69: in a READ_RAW or a SAMPLE chip-select is asserted once and deasserted once; between the two there are exactly
eight exchanges, each sending 0x00 and none repeated, byte k received going to `FB[k]`; the settle delay passes before
the first, and hold delay k between exchange k and the next. -/
def Obligations.ReadCycleOnTheWire : Prop :=
  ∀ (s : State) (op : BitVec 2), op.getLsbD 0 = true → s.Offered op 19 →
    ∃ (t : State) (rise fall : Nat) (start stop : Fin 8 → Nat), runs 19 s = .next t ∧
      t.wire = .select false rise ::
        ((List.finRange 8).reverse.map fun k => WireEvent.exchange 0 t.regs.fb[k] (start k) (stop k)) ++
        .select true fall :: s.wire ∧
      fall + Config.timing.nSettle ≤ start 0 ∧
      (∀ k : Fin 7, stop k.castSucc + Config.timing.nHold[k] ≤ start k.succ) ∧
      (∀ k : Fin 8, start k ≤ stop k) ∧ stop 7 ≤ rise

/-- R113: from acceptance to completion of a transport command, that is after 1 to 18 steps of a READ_RAW and 1 to 19 of a
SAMPLE, BUSY is 1 and DONE is 0, and the ports still show the previous sample. -/
def Obligations.PreviousSampleShowsWhileBusy : Prop :=
  ∀ (s : State) (op : BitVec 2) (n : Nat), op.getLsbD 0 = true → s.Offered op n → 1 ≤ n →
    n ≤ (if op.getLsbD 1 then 19 else 18) →
    ∃ t, runs n s = .next t ∧ t.regs.busy = true ∧ t.regs.done = false ∧ t.regs.sample = s.regs.sample

/-- What the spec derives in R70: a data line stuck at 0 or at 1 for a whole SAMPLE fills `FB` with 0x00 or 0xFF, and the sample is invalid. -/
def Obligations.StuckLineNeverGivesAValidSample : Prop :=
  ∀ (s : State) (level : Bool), s.Offered 0b11 20 → s.sensor = .stuck level →
    ∃ t, runs 20 s = .next t ∧ t.regs.busy = false ∧ t.regs.done = true ∧ t.regs.valid = false ∧
      ∀ k : Fin 8, t.regs.fb[k] = if level then 255 else 0

/-- R77, R93: a command that has been accepted completes: from every busy state that meets the invariant, with no reset,
BUSY is 0 and DONE is 1 after at most nineteen steps, whatever the sensor answers and the host offers. -/
def Obligations.EveryCommandCompletes : Prop :=
  ∀ s : State, s.regs.ArchInv → s.regs.busy = true → s.NoReset 19 →
    ∃ n ≤ 19, ∃ t, runs n s = .next t ∧ t.regs.busy = false ∧ t.regs.done = true

/-- R98 (2): a command offered in the step in which the previous one completes is dropped; offered again in the next
step, it is accepted. -/
def Obligations.OfferAtCompletionIsDropped : Prop :=
  ∀ (s : State) (p q : Ports) (rest : List Ports), s.regs.busy = true →
    (s.regs.step = 18 ∨ (s.regs.step = 17 ∧ s.regs.opr.getLsbD 1 = false)) →
    s.ports = p :: q :: rest → p.rst = false → q.rst = false → q.start = true → q.op ≠ 0 →
    ∃ t u, step s = .next t ∧ t.regs.busy = false ∧ t.regs.done = true ∧ t.regs.opr = s.regs.opr ∧
      step t = .next u ∧ u.regs.busy = true ∧ u.regs.done = false ∧ u.regs.opr = q.op

/-! ### Ports -/

/-- R25: the output ports are the registers, `frame_o` with byte k on bits 8k+7 down to 8k; `mosi_o` is 0. -/
def Obligations.PortsShowTheRegisters : Prop :=
  ∀ s : State,
    s.outputs.busyO = s.regs.busy ∧ s.outputs.doneO = s.regs.done ∧ s.outputs.xO = s.regs.x ∧
    s.outputs.yO = s.regs.y ∧ s.outputs.validO = s.regs.valid ∧ s.outputs.csNO = !s.regs.cs ∧
    s.outputs.sclkO = s.regs.sclk ∧ s.outputs.mosiO = false ∧
    ∀ k : Fin 8, s.outputs.frameO.extractLsb' (8 * k.val) 8 = s.regs.fb[k]

/-! ### The cycle level -/

/-- What the spec derives in R75: run from the start of a micro-operation to its end at cycle level, whatever the host offers meanwhile, the
registers are exactly those that exec gives, the sensor's answer being the byte received at the sampling edges. -/
def Obligations.LevelsAgreeOnEveryMicroOperation : Prop :=
  ∀ (t : Timing) (s u : State) (m : Micro) (is : List CycleIn), t.Ok →
    s.regs.busy = true → decodeStep s.regs.step = some m → s.regs.cnt = 0 →
    is.length = microCycles t m → NoResetIn is →
    (∀ k, m = .xchg k → s.busAnswer = receivedByte t is) →
    exec m.toInstr s = .next u → cycles t is s.regs = .next u.regs

/-- R73: the b-th sample becomes bit 7 - b of the received byte. -/
def Obligations.FirstBitReceivedIsBitSeven : Prop :=
  ∀ (m : Fin 8 → Bool) (b : Fin 8), (byteOfBits m).getLsbD (7 - b.val) = m b

/-- R71: `miso_i` influences the registers only in the cycles of an exchange with `CNT mod 2*H = H - 1`. -/
def Obligations.MisoMattersOnlyAtSamplingEdges : Prop :=
  ∀ (t : Timing) (h : Ports) (a b : Bool) (r : Regs),
    cycle t { host := h, miso := a } r ≠ cycle t { host := h, miso := b } r →
    r.busy = true ∧ h.rst = false ∧ (∃ k, decodeStep r.step = some (.xchg k)) ∧ r.count t % (2 * t.h) = t.h - 1

/-- R98: at an edge, reset overrides everything; else, while BUSY = 1, `start_i` and `op_i` are ignored, at the completion
edge too; else a command offered is accepted. VALID is 0 just when some test fails, and shows no more. -/
def Obligations.EdgePrecedence : Prop :=
  (∀ (t : Timing) (i : CycleIn) (r : Regs), i.host.rst = true → cycle t i r = .next Regs.reset) ∧
  (∀ (t : Timing) (p q : Ports) (a : Bool) (r : Regs), r.busy = true → p.rst = q.rst →
    cycle t { host := p, miso := a } r = cycle t { host := q, miso := a } r) ∧
  (∀ (t : Timing) (i : CycleIn) (r : Regs), i.host.rst = false → r.Idle → i.host.start = true →
    i.host.op ≠ 0 → cycle t i r = .next (accept i.host.op r)) ∧
  ∀ f : Frame, (fdDecode f).valid = false ↔ markerOk f = false ∨ reservedOk f = false ∨ checksumOk f = false

/-- What the spec derives in R121: a READ_RAW keeps BUSY = 1 for `1 + S + 128*H + G + 1` cycles, a SAMPLE for one more, and not one fewer,
whatever the data, the host's further offers and the registers before; DONE is 1 at its end. -/
def Obligations.TransportCommandDuration : Prop :=
  ∀ (t : Timing) (i : CycleIn) (is : List CycleIn) (r : Regs), t.Ok → r.Idle → i.OffersTransport → NoResetIn is →
    is.length = 1 + t.nSettle + 128 * t.h + t.nHold.toList.sum + 1 + (if i.host.op.getLsbD 1 then 1 else 0) →
    (∃ u, cycles t (i :: is) r = .next u ∧ u.busy = false ∧ u.done = true) ∧
    ∀ n < is.length, ∃ u, cycles t (i :: is.take n) r = .next u ∧ u.busy = true ∧ u.done = false

/-- What the spec derives in R121: a DECODE keeps BUSY = 1 for one cycle, and a NOP never raises it. -/
def Obligations.DecodeAndNopDuration : Prop :=
  ∀ (t : Timing) (i j : CycleIn) (r : Regs), r.Idle → i.host.rst = false → i.host.start = true →
    j.host.rst = false →
    (i.host.op = 0b10 → ∃ u v, cycle t i r = .next u ∧ u.busy = true ∧ u.done = false ∧
      cycle t j u = .next v ∧ v.busy = false ∧ v.done = true ∧ v.sample = fdDecode r.fb) ∧
    (i.host.op = 0b00 → cycle t i r = .next r)

/-- What the spec derives in R74: counted from the acceptance edge, chip-select is asserted from edge 1 to the edge before `T_7 + B + 1`, and
`FB[k]` changes at edge `T_k + B`, to the byte received in the B cycles before. -/
def Obligations.ReadCycleEdges : Prop :=
  ∀ (t : Timing) (i : CycleIn) (is : List CycleIn) (r u : Regs), t.Ok → r.Idle → r.cs = false →
    i.OffersTransport → NoResetIn is → is.length ≤ cyclesBeforeExchange t 7 + exchangeCycles t + 1 →
    cycles t (i :: is) r = .next u →
    (u.cs = true ↔ 1 ≤ is.length ∧ is.length ≤ cyclesBeforeExchange t 7 + exchangeCycles t) ∧
    ∀ k : Fin 8, u.fb[k] =
      if cyclesBeforeExchange t k + exchangeCycles t ≤ is.length then
        receivedByte t ((is.drop (cyclesBeforeExchange t k)).take (exchangeCycles t))
      else r.fb[k]

/-- What the spec derives in R74: counted from the acceptance edge, the clock line is high from the sampling edge `T_k + 2*H*b + H` to the edge
before `T_k + 2*H*(b+1)` for each exchange k and bit b, and low at all other times of the read cycle. -/
def Obligations.ClockLineEdges : Prop :=
  ∀ (t : Timing) (i : CycleIn) (is : List CycleIn) (r u : Regs), t.Ok → r.Idle → r.sclk = false →
    i.OffersTransport → NoResetIn is → is.length ≤ cyclesBeforeExchange t 7 + exchangeCycles t + 1 →
    cycles t (i :: is) r = .next u →
    (u.sclk = true ↔ ∃ k b : Fin 8,
      cyclesBeforeExchange t k + 2 * t.h * b.val + t.h ≤ is.length ∧
      is.length < cyclesBeforeExchange t k + 2 * t.h * (b.val + 1))

/-- The registers of the state-level cycle step are those of R71, on the host's inputs and with `miso_i` from the sensor
of the state; one cycle passes. -/
def Obligations.CycleStepFollowsTheEdge : Prop :=
  ∀ (t : Timing) (s u : State), cycleStep t s = .next u →
    cycle t { host := s.nextPorts, miso := s.misoNow t } s.regs = .next u.regs ∧
    u.time = s.time + 1 ∧ u.ports = s.ports.tail
end

