-- ==== Sys2Proof/Laws/Decode.lean ====
section
/-! SUPPORT. What the step decoder gives on each value, and how the packing of a frame reads back byte by byte. -/

namespace Sys2Proof

/-- The step decoder on the steps of the micro-program (R48, R63), and that it gives nothing else. -/
theorem decodeStep_eq_some_iff (v : BitVec 5) (m : Micro) :
    decodeStep v = some m ↔ v = match m with
      | .csa    => 0
      | .dly n  => BitVec.ofNat 5 (2 * n.val + 1)
      | .xchg k => BitVec.ofNat 5 (2 * k.val + 2)
      | .csd    => 17
      | .dec    => 18 := by
  cases m with
  | csa => revert v; decide
  | dly n => revert v n; decide
  | xchg k => revert v k; decide
  | csd => revert v; decide
  | dec => revert v; decide

/-- The values that select nothing are 19 to 31 (R49). -/
theorem decodeStep_eq_none_iff (v : BitVec 5) : decodeStep v = none ↔ 19 ≤ v.toNat := by
  revert v; decide

/-- The values that select something are 0 to 18 (R48). -/
theorem decodeStep_isSome {v : BitVec 5} (h : v.toNat ≤ 18) : ∃ m, decodeStep v = some m := by
  cases hm : decodeStep v with
  | none => have := (decodeStep_eq_none_iff v).1 hm; omega
  | some m => exact ⟨m, rfl⟩

theorem decodeStep_le {v : BitVec 5} {m : Micro} (h : decodeStep v = some m) : v.toNat ≤ 18 := by
  have := mt (decodeStep_eq_none_iff v).2 (by simp [h])
  omega

/-- Byte k of a packed frame is byte k of the frame (R24). -/
theorem frameByte_packFrame (f : Frame) (k : Nat) (h : k < 8) : frameByte (packFrame f) k = f[k] := by
  unfold frameByte packFrame
  apply BitVec.eq_of_getLsbD_eq
  intro i hi
  simp only [BitVec.getLsbD_extractLsb', BitVec.getLsbD_append, hi, decide_true, Bool.true_and]
  interval_cases k <;> interval_cases i <;> rfl

/-- A 64-bit word is determined by its eight bytes. -/
theorem frameByte_ext {w v : BitVec 64} (h : ∀ k, k < 8 → frameByte w k = frameByte v k) : w = v := by
  apply BitVec.eq_of_getLsbD_eq
  intro i hi
  have := congrArg (fun b => b.getLsbD (i % 8)) (h (i / 8) (by omega))
  simpa [frameByte, BitVec.getLsbD_extractLsb', Nat.mod_lt, Nat.div_add_mod] using this

theorem unpackFrame_getElem (w : BitVec 64) (k : Nat) (h : k < 8) : (unpackFrame w)[k] = frameByte w k := by
  interval_cases k <;> rfl

/-- Packing and unpacking a frame undo each other (R24, R44). -/
theorem unpackFrame_packFrame (f : Frame) : unpackFrame (packFrame f) = f := by
  apply Vector.ext
  intro k hk
  rw [unpackFrame_getElem _ _ hk, frameByte_packFrame f k hk]

theorem packFrame_unpackFrame (w : BitVec 64) : packFrame (unpackFrame w) = w := by
  apply frameByte_ext
  intro k hk
  rw [frameByte_packFrame _ _ hk, unpackFrame_getElem _ _ hk]

end Sys2Proof
end

