-- ==== Sys2Proof/Laws/State.lean ====
section
/-! SUPPORT. One lemma per field per update of State, and what a reset host queue and the registers' own updates leave. -/

namespace Sys2Proof.Machine

@[simp] theorem State.elapse_regs (n : Nat) (s : State) : (s.elapse n).regs = s.regs := rfl
@[simp] theorem State.elapse_ports (n : Nat) (s : State) : (s.elapse n).ports = s.ports := rfl
@[simp] theorem State.elapse_sensor (n : Nat) (s : State) : (s.elapse n).sensor = s.sensor := rfl
@[simp] theorem State.elapse_wire (n : Nat) (s : State) : (s.elapse n).wire = s.wire := rfl
@[simp] theorem State.elapse_tick (n : Nat) (s : State) : (s.elapse n).tick = s.tick + 1 := rfl
@[simp] theorem State.elapse_time (n : Nat) (s : State) : (s.elapse n).time = s.time + n + Config.slack s.tick := rfl

@[simp] theorem State.popPorts_regs (s : State) : (s.popPorts).regs = s.regs := rfl
@[simp] theorem State.popPorts_ports (s : State) : (s.popPorts).ports = s.ports.tail := rfl
@[simp] theorem State.popPorts_sensor (s : State) : (s.popPorts).sensor = s.sensor := rfl
@[simp] theorem State.popPorts_wire (s : State) : (s.popPorts).wire = s.wire := rfl
@[simp] theorem State.popPorts_tick (s : State) : (s.popPorts).tick = s.tick := rfl
@[simp] theorem State.popPorts_time (s : State) : (s.popPorts).time = s.time := rfl

@[simp] theorem State.logWire_regs (e : WireEvent) (s : State) : (s.logWire e).regs = s.regs := rfl
@[simp] theorem State.logWire_ports (e : WireEvent) (s : State) : (s.logWire e).ports = s.ports := rfl
@[simp] theorem State.logWire_sensor (e : WireEvent) (s : State) : (s.logWire e).sensor = s.sensor := rfl
@[simp] theorem State.logWire_wire (e : WireEvent) (s : State) : (s.logWire e).wire = e :: s.wire := rfl
@[simp] theorem State.logWire_tick (e : WireEvent) (s : State) : (s.logWire e).tick = s.tick := rfl
@[simp] theorem State.logWire_time (e : WireEvent) (s : State) : (s.logWire e).time = s.time := rfl

@[simp] theorem State.setRegs_regs (r : Regs) (s : State) : (s.setRegs r).regs = r := rfl
@[simp] theorem State.setRegs_ports (r : Regs) (s : State) : (s.setRegs r).ports = s.ports := rfl
@[simp] theorem State.setRegs_sensor (r : Regs) (s : State) : (s.setRegs r).sensor = s.sensor := rfl
@[simp] theorem State.setRegs_wire (r : Regs) (s : State) : (s.setRegs r).wire = s.wire := rfl
@[simp] theorem State.setRegs_tick (r : Regs) (s : State) : (s.setRegs r).tick = s.tick := rfl
@[simp] theorem State.setRegs_time (r : Regs) (s : State) : (s.setRegs r).time = s.time := rfl

@[simp] theorem State.popSensor_regs (s : State) : (s.popSensor).regs = s.regs := rfl
@[simp] theorem State.popSensor_ports (s : State) : (s.popSensor).ports = s.ports := rfl
@[simp] theorem State.popSensor_sensor (s : State) : (s.popSensor).sensor = sensorRest s.sensor := rfl
@[simp] theorem State.popSensor_wire (s : State) : (s.popSensor).wire = s.wire := rfl
@[simp] theorem State.popSensor_tick (s : State) : (s.popSensor).tick = s.tick := rfl
@[simp] theorem State.popSensor_time (s : State) : (s.popSensor).time = s.time := rfl

@[simp] theorem latchSample_fb (a : Sample) (r : Regs) : (latchSample a r).fb = r.fb := rfl
@[simp] theorem latchSample_x (a : Sample) (r : Regs) : (latchSample a r).x = a.x := rfl
@[simp] theorem latchSample_y (a : Sample) (r : Regs) : (latchSample a r).y = a.y := rfl
@[simp] theorem latchSample_valid (a : Sample) (r : Regs) : (latchSample a r).valid = a.valid := rfl
@[simp] theorem latchSample_busy (a : Sample) (r : Regs) : (latchSample a r).busy = r.busy := rfl
@[simp] theorem latchSample_done (a : Sample) (r : Regs) : (latchSample a r).done = r.done := rfl
@[simp] theorem latchSample_opr (a : Sample) (r : Regs) : (latchSample a r).opr = r.opr := rfl
@[simp] theorem latchSample_step (a : Sample) (r : Regs) : (latchSample a r).step = r.step := rfl
@[simp] theorem latchSample_cnt (a : Sample) (r : Regs) : (latchSample a r).cnt = r.cnt := rfl
@[simp] theorem latchSample_sr (a : Sample) (r : Regs) : (latchSample a r).sr = r.sr := rfl
@[simp] theorem latchSample_cs (a : Sample) (r : Regs) : (latchSample a r).cs = r.cs := rfl
@[simp] theorem latchSample_sclk (a : Sample) (r : Regs) : (latchSample a r).sclk = r.sclk := rfl

@[simp] theorem setSelect_fb (b : Bool) (r : Regs) : (setSelect b r).fb = r.fb := rfl
@[simp] theorem setSelect_x (b : Bool) (r : Regs) : (setSelect b r).x = r.x := rfl
@[simp] theorem setSelect_y (b : Bool) (r : Regs) : (setSelect b r).y = r.y := rfl
@[simp] theorem setSelect_valid (b : Bool) (r : Regs) : (setSelect b r).valid = r.valid := rfl
@[simp] theorem setSelect_busy (b : Bool) (r : Regs) : (setSelect b r).busy = r.busy := rfl
@[simp] theorem setSelect_done (b : Bool) (r : Regs) : (setSelect b r).done = r.done := rfl
@[simp] theorem setSelect_opr (b : Bool) (r : Regs) : (setSelect b r).opr = r.opr := rfl
@[simp] theorem setSelect_step (b : Bool) (r : Regs) : (setSelect b r).step = r.step := rfl
@[simp] theorem setSelect_cnt (b : Bool) (r : Regs) : (setSelect b r).cnt = r.cnt := rfl
@[simp] theorem setSelect_sr (b : Bool) (r : Regs) : (setSelect b r).sr = r.sr := rfl
@[simp] theorem setSelect_cs (b : Bool) (r : Regs) : (setSelect b r).cs = b := rfl
@[simp] theorem setSelect_sclk (b : Bool) (r : Regs) : (setSelect b r).sclk = r.sclk := rfl

@[simp] theorem storeByte_fb (k : Fin 8) (rx : Byte) (r : Regs) : (storeByte k rx r).fb = r.fb.set k rx := rfl
@[simp] theorem storeByte_x (k : Fin 8) (rx : Byte) (r : Regs) : (storeByte k rx r).x = r.x := rfl
@[simp] theorem storeByte_y (k : Fin 8) (rx : Byte) (r : Regs) : (storeByte k rx r).y = r.y := rfl
@[simp] theorem storeByte_valid (k : Fin 8) (rx : Byte) (r : Regs) : (storeByte k rx r).valid = r.valid := rfl
@[simp] theorem storeByte_busy (k : Fin 8) (rx : Byte) (r : Regs) : (storeByte k rx r).busy = r.busy := rfl
@[simp] theorem storeByte_done (k : Fin 8) (rx : Byte) (r : Regs) : (storeByte k rx r).done = r.done := rfl
@[simp] theorem storeByte_opr (k : Fin 8) (rx : Byte) (r : Regs) : (storeByte k rx r).opr = r.opr := rfl
@[simp] theorem storeByte_step (k : Fin 8) (rx : Byte) (r : Regs) : (storeByte k rx r).step = r.step := rfl
@[simp] theorem storeByte_cnt (k : Fin 8) (rx : Byte) (r : Regs) : (storeByte k rx r).cnt = r.cnt := rfl
@[simp] theorem storeByte_sr (k : Fin 8) (rx : Byte) (r : Regs) : (storeByte k rx r).sr = rx := rfl
@[simp] theorem storeByte_cs (k : Fin 8) (rx : Byte) (r : Regs) : (storeByte k rx r).cs = r.cs := rfl
@[simp] theorem storeByte_sclk (k : Fin 8) (rx : Byte) (r : Regs) : (storeByte k rx r).sclk = false := rfl

@[simp] theorem accept_fb (op : BitVec 2) (r : Regs) : (accept op r).fb = r.fb := rfl
@[simp] theorem accept_x (op : BitVec 2) (r : Regs) : (accept op r).x = r.x := rfl
@[simp] theorem accept_y (op : BitVec 2) (r : Regs) : (accept op r).y = r.y := rfl
@[simp] theorem accept_valid (op : BitVec 2) (r : Regs) : (accept op r).valid = r.valid := rfl
@[simp] theorem accept_busy (op : BitVec 2) (r : Regs) : (accept op r).busy = true := rfl
@[simp] theorem accept_done (op : BitVec 2) (r : Regs) : (accept op r).done = false := rfl
@[simp] theorem accept_opr (op : BitVec 2) (r : Regs) : (accept op r).opr = op := rfl
@[simp] theorem accept_step (op : BitVec 2) (r : Regs) : (accept op r).step = if op.getLsbD 0 then 0 else 18 := rfl
@[simp] theorem accept_cnt (op : BitVec 2) (r : Regs) : (accept op r).cnt = 0 := rfl
@[simp] theorem accept_sr (op : BitVec 2) (r : Regs) : (accept op r).sr = r.sr := rfl
@[simp] theorem accept_cs (op : BitVec 2) (r : Regs) : (accept op r).cs = r.cs := rfl
@[simp] theorem accept_sclk (op : BitVec 2) (r : Regs) : (accept op r).sclk = r.sclk := rfl

@[simp] theorem complete_fb (r : Regs) : (complete r).fb = r.fb := rfl
@[simp] theorem complete_x (r : Regs) : (complete r).x = r.x := rfl
@[simp] theorem complete_y (r : Regs) : (complete r).y = r.y := rfl
@[simp] theorem complete_valid (r : Regs) : (complete r).valid = r.valid := rfl
@[simp] theorem complete_busy (r : Regs) : (complete r).busy = false := rfl
@[simp] theorem complete_done (r : Regs) : (complete r).done = true := rfl
@[simp] theorem complete_opr (r : Regs) : (complete r).opr = r.opr := rfl
@[simp] theorem complete_step (r : Regs) : (complete r).step = 0 := rfl
@[simp] theorem complete_cnt (r : Regs) : (complete r).cnt = 0 := rfl
@[simp] theorem complete_sr (r : Regs) : (complete r).sr = r.sr := rfl
@[simp] theorem complete_cs (r : Regs) : (complete r).cs = r.cs := rfl
@[simp] theorem complete_sclk (r : Regs) : (complete r).sclk = r.sclk := rfl

@[simp] theorem advance_fb (r : Regs) : (advance r).fb = r.fb := rfl
@[simp] theorem advance_x (r : Regs) : (advance r).x = r.x := rfl
@[simp] theorem advance_y (r : Regs) : (advance r).y = r.y := rfl
@[simp] theorem advance_valid (r : Regs) : (advance r).valid = r.valid := rfl
@[simp] theorem advance_busy (r : Regs) : (advance r).busy = r.busy := rfl
@[simp] theorem advance_done (r : Regs) : (advance r).done = r.done := rfl
@[simp] theorem advance_opr (r : Regs) : (advance r).opr = r.opr := rfl
@[simp] theorem advance_step (r : Regs) : (advance r).step = r.step + 1 := rfl
@[simp] theorem advance_cnt (r : Regs) : (advance r).cnt = 0 := rfl
@[simp] theorem advance_sr (r : Regs) : (advance r).sr = r.sr := rfl
@[simp] theorem advance_cs (r : Regs) : (advance r).cs = r.cs := rfl
@[simp] theorem advance_sclk (r : Regs) : (advance r).sclk = r.sclk := rfl

/-- Sequencing touches only the sequencer's own registers (R68). -/
theorem endMicro_eq (r : Regs) :
    endMicro r = if r.step = 18 ∨ (r.step = 17 ∧ r.opr.getLsbD 1 = false)
      then { r with busy := false, done := true, step := 0, cnt := 0 }
      else { r with step := r.step + 1, cnt := 0 } := rfl

@[simp] theorem endMicro_fb (r : Regs) : (endMicro r).fb = r.fb := by unfold endMicro; split <;> rfl
@[simp] theorem endMicro_x (r : Regs) : (endMicro r).x = r.x := by unfold endMicro; split <;> rfl
@[simp] theorem endMicro_y (r : Regs) : (endMicro r).y = r.y := by unfold endMicro; split <;> rfl
@[simp] theorem endMicro_valid (r : Regs) : (endMicro r).valid = r.valid := by unfold endMicro; split <;> rfl
@[simp] theorem endMicro_opr (r : Regs) : (endMicro r).opr = r.opr := by unfold endMicro; split <;> rfl
@[simp] theorem endMicro_cnt (r : Regs) : (endMicro r).cnt = 0 := by unfold endMicro; split <;> rfl
@[simp] theorem endMicro_sr (r : Regs) : (endMicro r).sr = r.sr := by unfold endMicro; split <;> rfl
@[simp] theorem endMicro_cs (r : Regs) : (endMicro r).cs = r.cs := by unfold endMicro; split <;> rfl
@[simp] theorem endMicro_sclk (r : Regs) : (endMicro r).sclk = r.sclk := by unfold endMicro; split <;> rfl

@[simp] theorem State.busAnswer_popPorts (s : State) : s.popPorts.busAnswer = s.busAnswer := rfl

/-- A host that drives no reset for n + 1 steps drives none now and none in the n steps after. -/
theorem nextPorts_rst_of_take {s : State} {n : Nat} (h : ∀ p ∈ s.ports.take (n + 1), p.rst = false) :
    s.nextPorts.rst = false := by
  unfold State.nextPorts
  cases hp : s.ports with
  | nil => rfl
  | cons p ps => exact h p (by simp [hp])

theorem tail_take_of_take {s : State} {n : Nat} (h : ∀ p ∈ s.ports.take (n + 1), p.rst = false) :
    ∀ p ∈ s.ports.tail.take n, p.rst = false := by
  intro p hp
  cases hs : s.ports with
  | nil => simp [hs] at hp
  | cons q qs => exact h p (by simp [hs] at hp ⊢; exact .inr hp)

end Sys2Proof.Machine
end

