-- ==== Sys2Proof/Laws/Timing.lean ====
section
/-! SUPPORT. Bounds on the durations that admissible parameters give. -/

namespace Sys2Proof.Machine

variable {t : Timing}

/-- A delay is at least one cycle, and no longer than the settle delay or the first hold delay. -/
theorem delayCycles_bounds (ht : t.Ok) (n : Fin 8) :
    1 ≤ delayCycles t n ∧ delayCycles t n ≤ max t.nSettle t.nHold[0] := by
  obtain ⟨-, hs, hpos, hfirst, -⟩ := ht
  unfold delayCycles
  split
  · exact ⟨hs, le_max_left _ _⟩
  · rename_i h
    have hn := n.isLt
    refine ⟨hpos ⟨n.val - 1, by omega⟩, le_trans ?_ (le_max_right _ _)⟩
    by_cases e : n.val - 1 = 0
    · simp [e]
    · have b : t.nHold[n.val - 1] < t.nHold[0] :=
        hfirst ⟨n.val - 1, by omega⟩ (fun h => e (by simpa using congrArg Fin.val h))
      exact b.le

/-- Every micro-operation takes at least one cycle. -/
theorem microCycles_pos (ht : t.Ok) (m : Micro) : 1 ≤ microCycles t m := by
  cases m with
  | dly n => exact (delayCycles_bounds ht n).1
  | xchg k => have := ht.1; simp only [microCycles, exchangeCycles]; omega
  | _ => exact le_rfl

/-- A micro-operation's cycles can be counted in `W_CNT` bits (R7, R18). -/
theorem microCycles_le (ht : t.Ok) (m : Micro) : microCycles t m ≤ 2 ^ t.wCnt := by
  obtain ⟨-, -, -, -, -, -, hw⟩ := id ht
  cases m with
  | dly n => have := (delayCycles_bounds ht n).2; simp only [microCycles]; omega
  | xchg k => simp only [microCycles, exchangeCycles]; omega
  | _ => exact Nat.one_le_two_pow

/-- `W_CNT` is at least the least width that R7 derives, and the durations fit that. -/
theorem counterWidth_le (ht : t.Ok) : counterWidth t ≤ t.wCnt := by
  obtain ⟨-, -, -, -, -, hpos, hw⟩ := ht
  exact max_le hpos (Nat.clog_le_of_le_pow hw)

theorem durations_le_counterWidth (t : Timing) :
    max t.nSettle (max t.nHold[0] (16 * t.h)) ≤ 2 ^ counterWidth t :=
  (Nat.le_pow_clog (by decide) _).trans (Nat.pow_le_pow_right (by decide) (le_max_right _ _))

/-- The last cycle of an exchange is the last cycle of a bit period. -/
theorem exchange_last_mod (ht : t.Ok) : (16 * t.h - 1) % (2 * t.h) = 2 * t.h - 1 := by
  have := ht.1
  rw [show 16 * t.h - 1 = (2 * t.h - 1) + (2 * t.h) * 7 by omega, Nat.add_mul_mod_self_left,
    Nat.mod_eq_of_lt (by omega)]

/-- The quotient by the bounds on the dividend. -/
theorem div_eq_of_bounds {a q d : Nat} (h1 : d * q ≤ a) (h2 : a < d * q + d) : a / d = q := by
  refine Nat.div_eq_of_lt_le (by rwa [Nat.mul_comm]) ?_
  rw [Nat.mul_comm, Nat.mul_succ]
  exact h2

end Sys2Proof.Machine
end

