-- ==== Sys2Proof/Laws/Cycle.lean ====
section
/-! SUPPORT. The cycle level: one edge in each case, edges one after another, and the registers in the middle of a
micro-operation. -/

namespace Sys2Proof.Machine

variable {t : Timing}

/-- A number that fits `W_CNT` bits is what `CNT` holds. -/
theorem Regs.count_of_lt {r : Regs} (h : r.cnt < 2 ^ t.wCnt) : r.count t = r.cnt := by
  simp [Regs.count, Regs.counter, Nat.mod_eq_of_lt h]

/-- At rest, in every width. -/
@[simp] theorem Regs.count_of_zero {r : Regs} (h : r.cnt = 0) : r.count t = 0 := by
  simp [Regs.count, Regs.counter, h]

/-- Counting up does not wrap while the next number fits. -/
theorem Regs.countUp_of_lt {r : Regs} (h : r.cnt + 1 < 2 ^ t.wCnt) : r.countUp t = r.cnt + 1 := by
  simp [Regs.countUp, Regs.counter, BitVec.toNat_add, Nat.mod_eq_of_lt h]

/-- An edge with a reset on. -/
theorem cycle_reset {i : CycleIn} {r : Regs} (hr : i.host.rst = true) : cycle t i r = .next Regs.reset := by
  rw [cycle, if_pos hr]

/-- An edge of an idle machine. -/
theorem cycle_idle {i : CycleIn} {r : Regs} (hr : i.host.rst = false) (hb : r.busy = false) (hs : r.step.toNat ≤ 18) :
    cycle t i r = .next (if i.host.start ∧ i.host.op ≠ 0 then accept i.host.op r else r) := by
  obtain ⟨m, hm⟩ := decodeStep_isSome hs
  rw [cycle, if_neg (by simp [hr])]
  simp only [hm]
  rw [if_neg (by simp [hb])]
  split <;> rfl

/-- An edge at a reserved `STEP`, of an idle machine or a busy one (R49). -/
theorem cycle_reserved {i : CycleIn} {r : Regs} (hr : i.host.rst = false) (hm : decodeStep r.step = none) :
    cycle t i r = .refused (.stepReserved r.step) := by
  rw [cycle, if_neg (by simp [hr])]
  simp only [hm]

/-- An edge of a busy machine at a step of the micro-program. -/
theorem cycle_busy {i : CycleIn} {r : Regs} {m : Micro} (hr : i.host.rst = false) (hb : r.busy = true)
    (hm : decodeStep r.step = some m) :
    cycle t i r = .next (if r.count t = microCycles t m - 1 then endMicro (microCycle t m i.miso true r)
      else { microCycle t m i.miso false r with cnt := r.countUp t }) := by
  rw [cycle, if_neg (by simp [hr])]
  simp only [hm]
  rw [if_pos hb]
  split <;> rfl

/-- Edges one after another. -/
theorem cycles_append (a b : List CycleIn) (r : Regs) :
    cycles t (a ++ b) r = match cycles t a r with
      | .next u    => cycles t b u
      | .fault e   => .fault e
      | .refused e => .refused e := by
  induction a generalizing r with
  | nil => rfl
  | cons i a ih =>
    simp only [List.cons_append, cycles]
    cases cycle t i r with
    | next u => exact ih u
    | fault e => rfl
    | refused e => rfl

theorem cycles_append_next {a b : List CycleIn} {r u : Regs} (h : cycles t a r = .next u) :
    cycles t (a ++ b) r = cycles t b u := by
  rw [cycles_append, h]

/-- The level of `miso_i` in the n-th cycle of a list. -/
def misoAt (is : List CycleIn) (n : Nat) : Bool := (is.map CycleIn.miso).getD n false

theorem misoAt_eq (is : List CycleIn) (n : Nat) (h : n < is.length) : misoAt is n = is[n].miso := by
  simp [misoAt, h]

/-- `SR` after n cycles of an exchange, `m` being the line and `sr` its old content. -/
def srAfter (t : Timing) (m : Nat → Bool) (sr : Byte) : Nat → Byte
  | 0     => sr
  | n + 1 =>
    if n % (2 * t.h) = t.h - 1 then (srAfter t m sr n).extractLsb' 0 7 ++ BitVec.ofBool (m n)
    else srAfter t m sr n

/-- `SCLK` after n cycles of an exchange, `c` being its level before. -/
def sclkAfter (t : Timing) (c : Bool) : Nat → Bool
  | 0     => c
  | n + 1 =>
    if n % (2 * t.h) = 2 * t.h - 1 then false else if n % (2 * t.h) = t.h - 1 then true else sclkAfter t c n

/-- The registers n cycles into a micro-operation that starts at r. -/
def midMicro (t : Timing) (m : Micro) (is : List CycleIn) (r : Regs) (n : Nat) : Regs :=
  match m with
  | .xchg _ => { r with cnt := n, sr := srAfter t (misoAt is) r.sr n, sclk := sclkAfter t r.sclk n }
  | _       => { r with cnt := n }

@[simp] theorem midMicro_busy (m : Micro) (is : List CycleIn) (r : Regs) (n : Nat) :
    (midMicro t m is r n).busy = r.busy := by cases m <;> rfl
@[simp] theorem midMicro_step (m : Micro) (is : List CycleIn) (r : Regs) (n : Nat) :
    (midMicro t m is r n).step = r.step := by cases m <;> rfl
@[simp] theorem midMicro_cnt (m : Micro) (is : List CycleIn) (r : Regs) (n : Nat) :
    (midMicro t m is r n).cnt = n := by cases m <;> rfl
@[simp] theorem midMicro_fb (m : Micro) (is : List CycleIn) (r : Regs) (n : Nat) :
    (midMicro t m is r n).fb = r.fb := by cases m <;> rfl
@[simp] theorem midMicro_cs (m : Micro) (is : List CycleIn) (r : Regs) (n : Nat) :
    (midMicro t m is r n).cs = r.cs := by cases m <;> rfl

/-- Before its last cycle has ended, a micro-operation has changed nothing but CNT, and in an exchange SR and SCLK. -/
theorem cycles_midMicro {m : Micro} {is : List CycleIn} {r : Regs} (ht : t.Ok) (hn : NoResetIn is) (hb : r.busy = true)
    (hm : decodeStep r.step = some m) (hc : r.cnt = 0) (n : Nat) (hl : n ≤ is.length) (hd : n < microCycles t m) :
    cycles t (is.take n) r = .next (midMicro t m is r n) := by
  induction n with
  | zero => cases m <;> simp [cycles, midMicro, srAfter, sclkAfter] <;> rw [← hc]
  | succ n ih =>
    rw [List.take_succ_eq_append_getElem (by omega), cycles_append_next (ih (by omega) (by omega))]
    have hw := microCycles_le ht m
    have hcount : (midMicro t m is r n).count t = n := by
      rw [Regs.count_of_lt (by rw [midMicro_cnt]; omega), midMicro_cnt]
    simp only [cycles]
    rw [cycle_busy (hn _ (List.getElem_mem _)) (by simpa using hb) (by simpa using hm), if_neg (by omega),
      Regs.countUp_of_lt (by rw [midMicro_cnt]; omega), midMicro_cnt]
    cases m with
    | csa => simp [microCycles] at hd
    | csd => simp [microCycles] at hd
    | dec => simp [microCycles] at hd
    | dly n => rfl
    | xchg k =>
      simp only [microCycle, bitEngine, hcount]
      simp only [midMicro, srAfter, sclkAfter, misoAt_eq is n (by omega)]
      rfl

/-- `SR` in the middle of an exchange, bit by bit: q samples are in, the newest of them in bit 0. -/
theorem srAfter_getLsbD (h : 1 ≤ t.h) (m : Nat → Bool) (sr : Byte) (n i : Nat) (hi : i < 8) :
    (srAfter t m sr n).getLsbD i =
      if i < (n + t.h) / (2 * t.h) then m (2 * t.h * ((n + t.h) / (2 * t.h) - 1 - i) + t.h - 1)
      else sr.getLsbD (i - (n + t.h) / (2 * t.h)) := by
  induction n generalizing i with
  | zero =>
    rw [show (0 + t.h) / (2 * t.h) = 0 from Nat.div_eq_of_lt (by omega)]
    simp [srAfter]
  | succ n ih =>
    rw [srAfter]
    have hdm := Nat.div_add_mod n (2 * t.h)
    have hlt := Nat.mod_lt n (show 0 < 2 * t.h by omega)
    by_cases hs : n % (2 * t.h) = t.h - 1
    · rw [if_pos hs]
      have h1 : (n + t.h) / (2 * t.h) = n / (2 * t.h) := div_eq_of_bounds (by omega) (by omega)
      have h2 : (n + 1 + t.h) / (2 * t.h) = n / (2 * t.h) + 1 :=
        div_eq_of_bounds (by rw [Nat.mul_succ]; omega) (by rw [Nat.mul_succ]; omega)
      rw [h2, BitVec.getLsbD_append]
      cases i with
      | zero =>
        have e : 2 * t.h * (n / (2 * t.h)) + t.h - 1 = n := by omega
        simp [e]
      | succ i =>
        have := ih i (by omega)
        rw [h1] at this
        rw [show n / (2 * t.h) + 1 - 1 - (i + 1) = n / (2 * t.h) - 1 - i by omega,
          show i + 1 - (n / (2 * t.h) + 1) = i - n / (2 * t.h) by omega, if_neg (by omega : ¬ i + 1 < 1),
          show i + 1 - 1 = i by omega, BitVec.getLsbD_extractLsb', Nat.zero_add, this,
          decide_eq_true (by omega : i < 7), Bool.true_and]
        by_cases hq : i < n / (2 * t.h)
        · rw [if_pos hq, if_pos (by omega)]
        · rw [if_neg hq, if_neg (by omega)]
    · rw [if_neg hs, ih i hi]
      have h1 : (n + 1 + t.h) / (2 * t.h) = (n + t.h) / (2 * t.h) := by
        rcases Nat.lt_or_ge (n % (2 * t.h)) (t.h - 1) with hx | hx
        · have a : (n + 1 + t.h) / (2 * t.h) = n / (2 * t.h) := div_eq_of_bounds (by omega) (by omega)
          have b : (n + t.h) / (2 * t.h) = n / (2 * t.h) := div_eq_of_bounds (by omega) (by omega)
          rw [a, b]
        · have hx' : t.h ≤ n % (2 * t.h) := by omega
          have a : (n + 1 + t.h) / (2 * t.h) = n / (2 * t.h) + 1 :=
            div_eq_of_bounds (by rw [Nat.mul_succ]; omega) (by rw [Nat.mul_succ]; omega)
          have b : (n + t.h) / (2 * t.h) = n / (2 * t.h) + 1 :=
            div_eq_of_bounds (by rw [Nat.mul_succ]; omega) (by rw [Nat.mul_succ]; omega)
          rw [a, b]
      rw [h1]

/-- `SCLK` in the middle of an exchange that starts with it low: high in the second half of each bit period. -/
theorem sclkAfter_eq (h : 1 ≤ t.h) (n : Nat) : sclkAfter t false n = decide (t.h ≤ n % (2 * t.h)) := by
  induction n with
  | zero => simp [sclkAfter]; omega
  | succ n ih =>
    rw [sclkAfter, ih]
    have hlt := Nat.mod_lt n (show 0 < 2 * t.h by omega)
    by_cases hp : n % (2 * t.h) = 2 * t.h - 1
    · have : (n + 1) % (2 * t.h) = 0 := by
        rw [Nat.add_mod, hp]
        by_cases h1 : 2 * t.h = 1
        · omega
        · rw [Nat.mod_eq_of_lt (show 1 < 2 * t.h by omega), show 2 * t.h - 1 + 1 = 2 * t.h by omega, Nat.mod_self]
      rw [if_pos hp, this]
      simp; omega
    · have : (n + 1) % (2 * t.h) = n % (2 * t.h) + 1 := by
        rw [Nat.add_mod, Nat.mod_eq_of_lt (show 1 < 2 * t.h by omega), Nat.mod_eq_of_lt (by omega)]
      rw [if_neg hp, this]
      by_cases hq : n % (2 * t.h) = t.h - 1
      · rw [if_pos hq]; simp; omega
      · rw [if_neg hq]; congr 1; simp; omega

end Sys2Proof.Machine
end

