-- ==== Sys2Proof/Laws/Exec.lean ====
section
/-! SUPPORT. Everything a micro-operation and a step can do, said once. -/

namespace Sys2Proof.Machine

/-- What a micro-operation makes of a state, field by field. -/
def microStep (m : Micro) (s : State) : State where
  regs   := runMicro m s.busAnswer s.regs
  ports  := s.ports
  sensor := match m with | .xchg _ => sensorRest s.sensor | _ => s.sensor
  wire   :=
    match m with
    | .csa    => .select true (s.time + 1 + Config.slack s.tick) :: s.wire
    | .csd    => .select false (s.time + 1 + Config.slack s.tick) :: s.wire
    | .xchg _ => .exchange 0 s.busAnswer s.time
        (s.time + exchangeCycles Config.timing + Config.slack s.tick) :: s.wire
    | _       => s.wire
  tick   := s.tick + 1
  time   := s.time + microCycles Config.timing m + Config.slack s.tick

/-- The meaning of a micro-operation's row is `microStep`. -/
theorem exec_toInstr (m : Micro) (s : State) : exec m.toInstr s = .next (microStep m s) := by
  cases m with
  | csa => rfl
  | dly n => fin_cases n <;> rfl
  | xchg k => fin_cases k <;> rfl
  | csd => rfl
  | dec => rfl

/-- Every instruction is a micro-operation, a command, or a frame. -/
theorem instr_cases (i : Instr) :
    (∃ m : Micro, i = m.toInstr) ∨ (∃ op : BitVec 2, i = decodeCmd op) ∨ ∃ f, i = .frame f := by
  cases i with
  | nop => exact .inr (.inl ⟨0, rfl⟩)
  | readRaw => exact .inr (.inl ⟨1, rfl⟩)
  | decode => exact .inr (.inl ⟨2, rfl⟩)
  | sample => exact .inr (.inl ⟨3, rfl⟩)
  | csa => exact .inl ⟨.csa, rfl⟩
  | dly0 => exact .inl ⟨.dly 0, rfl⟩
  | dly1 => exact .inl ⟨.dly 1, rfl⟩
  | dly2 => exact .inl ⟨.dly 2, rfl⟩
  | dly3 => exact .inl ⟨.dly 3, rfl⟩
  | dly4 => exact .inl ⟨.dly 4, rfl⟩
  | dly5 => exact .inl ⟨.dly 5, rfl⟩
  | dly6 => exact .inl ⟨.dly 6, rfl⟩
  | dly7 => exact .inl ⟨.dly 7, rfl⟩
  | xchg0 => exact .inl ⟨.xchg 0, rfl⟩
  | xchg1 => exact .inl ⟨.xchg 1, rfl⟩
  | xchg2 => exact .inl ⟨.xchg 2, rfl⟩
  | xchg3 => exact .inl ⟨.xchg 3, rfl⟩
  | xchg4 => exact .inl ⟨.xchg 4, rfl⟩
  | xchg5 => exact .inl ⟨.xchg 5, rfl⟩
  | xchg6 => exact .inl ⟨.xchg 6, rfl⟩
  | xchg7 => exact .inl ⟨.xchg 7, rfl⟩
  | csd => exact .inl ⟨.csd, rfl⟩
  | dec => exact .inl ⟨.dec, rfl⟩
  | frame f => exact .inr (.inr ⟨f, rfl⟩)

/-- The meaning of a command is its offer. -/
theorem exec_decodeCmd (op : BitVec 2) (s : State) : exec (decodeCmd op) s = .next (offer op s) := by
  have h : op = 0 ∨ op = 1 ∨ op = 2 ∨ op = 3 := by revert op; decide
  rcases h with rfl | rfl | rfl | rfl <;> rfl

/-- An offer to an idle machine. -/
theorem offer_idle (op : BitVec 2) (s : State) (h : s.regs.busy = false) :
    offer op s = if op = 0 then s.elapse 1 else (s.elapse 1).setRegs (accept op s.regs) := by
  simp [offer, h]

/-- An offer to a busy machine is nothing (R60). -/
theorem offer_busy (op : BitVec 2) (s : State) (h : s.regs.busy = true) : offer op s = s := by
  simp [offer, h]

/-- A step of a busy machine at a step of the micro-program. -/
theorem step_busy {s : State} {m : Micro} (hr : s.nextPorts.rst = false) (hb : s.regs.busy = true)
    (hm : decodeStep s.regs.step = some m) : step s = .next (microStep m s.popPorts) := by
  simp [step, hr, hb, decode, hm, exec_toInstr]

/-- A step at a reserved `STEP`, of an idle machine or a busy one (R49). -/
theorem step_reserved {s : State} (hr : s.nextPorts.rst = false) (hm : decodeStep s.regs.step = none) :
    step s = .refused (.stepReserved s.regs.step) := by
  simp [step, hr, decode, hm]

/-- A step of an idle machine: the command offered, or nothing. -/
theorem step_idle {s : State} (hr : s.nextPorts.rst = false) (hb : s.regs.busy = false) (hs : s.regs.step.toNat ≤ 18) :
    step s = .next (if s.nextPorts.start then offer s.nextPorts.op s.popPorts else idle s.popPorts) := by
  obtain ⟨m, hm⟩ := decodeStep_isSome hs
  by_cases h : s.nextPorts.start = true <;> simp [step, hr, hb, decode, hm, h, exec_decodeCmd]

/-- A step with a reset on (R98). -/
theorem step_reset {s : State} (hr : s.nextPorts.rst = true) : step s = .next (applyReset s.popPorts) := by
  simp [step, hr]

/-- What each micro-operation does to the frame buffer (R11, R66). -/
theorem runMicro_fb (m : Micro) (rx : Byte) (r : Regs) :
    (runMicro m rx r).fb = match m with | .xchg k => r.fb.set k rx | _ => r.fb := by
  cases m <;> simp [runMicro]

/-- What each micro-operation does to chip-select (R64, R67). -/
theorem runMicro_cs (m : Micro) (rx : Byte) (r : Regs) :
    (runMicro m rx r).cs = match m with | .csa => true | .csd => false | _ => r.cs := by
  cases m <;> simp [runMicro]

/-- What each micro-operation does to the results (R80). -/
theorem runMicro_results (m : Micro) (rx : Byte) (r : Regs) :
    ((runMicro m rx r).x, (runMicro m rx r).y, (runMicro m rx r).valid) = match m with
      | .dec => (xField r.fb, yField r.fb, validFlag r.fb)
      | _    => (r.x, r.y, r.valid) := by
  cases m <;> simp [runMicro, fdDecode]

/-- What each micro-operation does to the registers that it leaves alone or puts to rest. -/
@[simp] theorem runMicro_opr (m : Micro) (rx : Byte) (r : Regs) : (runMicro m rx r).opr = r.opr := by
  cases m <;> simp [runMicro]
@[simp] theorem runMicro_cnt (m : Micro) (rx : Byte) (r : Regs) : (runMicro m rx r).cnt = 0 := by
  cases m <;> simp [runMicro]

/-- The sequencer's registers after a micro-operation do not depend on the data (R68). -/
theorem endMicro_sequence (r : Regs) :
    ((endMicro r).busy, (endMicro r).done, (endMicro r).step) =
      if r.step = 18 ∨ (r.step = 17 ∧ r.opr.getLsbD 1 = false) then (false, true, 0)
      else (r.busy, r.done, r.step + 1) := by
  by_cases h : r.step = 18 ∨ (r.step = 17 ∧ r.opr.getLsbD 1 = false)
  · rw [endMicro_eq, if_pos h, if_pos h]
  · rw [endMicro_eq, if_neg h, if_neg h]

theorem runMicro_sequence (m : Micro) (rx : Byte) (r : Regs) :
    ((runMicro m rx r).busy, (runMicro m rx r).done, (runMicro m rx r).step) =
      if r.step = 18 ∨ (r.step = 17 ∧ r.opr.getLsbD 1 = false) then (false, true, 0)
      else (r.busy, r.done, r.step + 1) := by
  cases m with
  | csa => exact endMicro_sequence (setSelect true r)
  | dly n => exact endMicro_sequence r
  | xchg k => exact endMicro_sequence (storeByte k rx r)
  | csd => exact endMicro_sequence (setSelect false r)
  | dec => exact endMicro_sequence (latchSample (fdDecode r.fb) r)

/-- What a reset leaves, field by field. -/
theorem applyReset_regs (s : State) : (applyReset s).regs = Regs.reset := by
  unfold applyReset; split <;> rfl

theorem applyReset_ports (s : State) : (applyReset s).ports = s.ports := by
  unfold applyReset; split <;> rfl

theorem applyReset_sensor (s : State) : (applyReset s).sensor = sensorAfterReset s.regs.cs s.sensor := by
  unfold applyReset; split <;> rfl

/-- Everything a step that answers a next state can be. -/
theorem step_cases {s t : State} (h : step s = .next t) :
    (s.nextPorts.rst = true ∧ t = applyReset s.popPorts) ∨
    (s.nextPorts.rst = false ∧ s.regs.busy = true ∧
      ∃ m, decodeStep s.regs.step = some m ∧ t = microStep m s.popPorts) ∨
    (s.nextPorts.rst = false ∧ s.regs.busy = false ∧ s.regs.step.toNat ≤ 18 ∧
      t = if s.nextPorts.start then offer s.nextPorts.op s.popPorts else idle s.popPorts) := by
  cases hr : s.nextPorts.rst with
  | true =>
    rw [step_reset hr] at h
    injection h with h
    exact .inl ⟨rfl, h.symm⟩
  | false =>
    cases hm : decodeStep s.regs.step with
    | none => rw [step_reserved hr hm] at h; cases h
    | some m =>
      cases hb : s.regs.busy with
      | true =>
        rw [step_busy hr hb hm] at h
        injection h with h
        exact .inr (.inl ⟨rfl, rfl, m, rfl, h.symm⟩)
      | false =>
        have hs := decodeStep_le hm
        rw [step_idle hr hb hs] at h
        injection h with h
        exact .inr (.inr ⟨rfl, rfl, hs, h.symm⟩)

end Sys2Proof.Machine
end

