-- ==== Sys2Proof/Laws/FrameDecoder.lean ====
section
/-! SUPPORT. Fields, bytes and the checksum of a frame as numbers. -/

namespace Sys2Proof.Machine

/-- A field as a number (R82, R83). -/
theorem field16_toNat (f : Frame) (lo hi : Fin 8) : (field16 f lo hi).toNat = f[lo].toNat + 256 * f[hi].toNat := by
  have := f[lo].isLt
  have := f[hi].isLt
  simp [field16]
  omega

/-- The bytes of a field. -/
theorem field16_low (f : Frame) (lo hi : Fin 8) : (field16 f lo hi).extractLsb' 0 8 = f[lo] := by
  apply BitVec.eq_of_toNat_eq
  have := f[lo].isLt
  rw [BitVec.extractLsb'_toNat, field16_toNat]
  simp
  omega

theorem field16_high (f : Frame) (lo hi : Fin 8) : (field16 f lo hi).extractLsb' 8 8 = f[hi] := by
  apply BitVec.eq_of_toNat_eq
  have := f[lo].isLt
  have := f[hi].isLt
  rw [BitVec.extractLsb'_toNat, field16_toNat]
  simp
  omega

/-- The validity flag, byte by byte. -/
theorem validFlag_eq (f : Frame) : validFlag f =
    (f[0] == 255 && (f[5] == 0 && f[6] == 0) && f[1] + f[2] + f[3] + f[4] == f[7]) := rfl

/-- Frames are equal when their eight bytes are. -/
theorem frame_ext {f g : Frame} (h0 : f[0] = g[0]) (h1 : f[1] = g[1]) (h2 : f[2] = g[2]) (h3 : f[3] = g[3])
    (h4 : f[4] = g[4]) (h5 : f[5] = g[5]) (h6 : f[6] = g[6]) (h7 : f[7] = g[7]) : f = g := by
  apply Vector.ext
  intro k hk
  interval_cases k <;> assumption

end Sys2Proof.Machine
end

