-- ==== Sys2Proof/Laws/PerInstr.lean ====
section
/-! SUPPORT. Statements about every instruction as it is written, one lemma per constructor. -/

namespace Sys2Proof.Laws.EncodeWf

/-- The encoding of an instruction is well-formed (R46 to R49). -/
def Statement (i : Instr) : Prop := (encode i).wellFormed = true

theorem nop : Statement .nop := rfl
theorem readRaw : Statement .readRaw := rfl
theorem decode : Statement .decode := rfl
theorem sample : Statement .sample := rfl
theorem csa : Statement .csa := rfl
theorem dly0 : Statement .dly0 := rfl
theorem xchg0 : Statement .xchg0 := rfl
theorem dly1 : Statement .dly1 := rfl
theorem xchg1 : Statement .xchg1 := rfl
theorem dly2 : Statement .dly2 := rfl
theorem xchg2 : Statement .xchg2 := rfl
theorem dly3 : Statement .dly3 := rfl
theorem xchg3 : Statement .xchg3 := rfl
theorem dly4 : Statement .dly4 := rfl
theorem xchg4 : Statement .xchg4 := rfl
theorem dly5 : Statement .dly5 := rfl
theorem xchg5 : Statement .xchg5 := rfl
theorem dly6 : Statement .dly6 := rfl
theorem xchg6 : Statement .xchg6 := rfl
theorem dly7 : Statement .dly7 := rfl
theorem xchg7 : Statement .xchg7 := rfl
theorem csd : Statement .csd := rfl
theorem dec : Statement .dec := rfl
theorem frame (f : Frame) : Statement (.frame f) := rfl

end Sys2Proof.Laws.EncodeWf
end

