-- ==== Sys2Proof/Laws/Run.lean ====
section
/-! SUPPORT. Runs of several steps: one step at the front, one at the end. -/

namespace Sys2Proof.Machine

theorem runs_zero (s : State) : runs 0 s = .next s := rfl

theorem runs_succ_next {n : Nat} {s u : State} (h : step s = .next u) : runs (n + 1) s = runs n u := by
  simp only [runs, h]

theorem runs_succ_refused {n : Nat} {s : State} {e : Refusal} (h : step s = .refused e) :
    runs (n + 1) s = .refused e := by
  simp only [runs, h]

/-- The last step of a run. -/
theorem runs_snoc (n : Nat) (s : State) :
    runs (n + 1) s = match runs n s with
      | .next t    => step t
      | .fault e   => .fault e
      | .refused e => .refused e := by
  induction n generalizing s with
  | zero =>
    cases h : step s with
    | next u => rw [runs_succ_next h]; exact h.symm
    | refused e => rw [runs_succ_refused h]; exact h.symm
    | fault e => cases e
  | succ n ih =>
    cases h : step s with
    | next u => rw [runs_succ_next h, runs_succ_next h]; exact ih u
    | refused e => rw [runs_succ_refused h, runs_succ_refused h]
    | fault e => cases e

/-- The state before the last step of a run that answers a next state. -/
theorem runs_succ_eq_next {n : Nat} {s t : State} (h : runs (n + 1) s = .next t) :
    ∃ u, runs n s = .next u ∧ step u = .next t := by
  rw [runs_snoc] at h
  cases hu : runs n s with
  | next u => rw [hu] at h; exact ⟨u, rfl, h⟩
  | fault e => cases e
  | refused e => rw [hu] at h; cases h

/-- The micro-operation that a step runs. -/
theorem running_eq_some_iff {s : State} {m : Micro} : s.running = some m ↔
    s.nextPorts.rst = false ∧ s.regs.busy = true ∧ decodeStep s.regs.step = some m := by
  unfold State.running
  cases s.nextPorts.rst <;> cases s.regs.busy <;> simp

/-- No reset in n steps is none in fewer. -/
theorem State.NoReset.mono {s : State} {n m : Nat} (h : s.NoReset n) (hm : m ≤ n) : s.NoReset m :=
  fun p hp => h p (List.take_subset_take_left s.ports hm hp)

end Sys2Proof.Machine
end

