-- ==== Sys2Proof/Tests/Slice0.lean ====
section
/-! SUPPORT. Tests, each on values of the spec (30_encoding.md, 41_transport_microops.md, 95_test_vectors.md), and
witnesses: for each statement with hypotheses, a concrete input that meets all of them. -/

namespace Sys2Proof.Tests

open Sys2Proof.Machine

/-! ### Helpers -/

/-- The registers of a next state. -/
def regsOf : Host.Outcome State Fault Refusal → Option Regs
  | .next t => some t.regs
  | _       => none

/-- TC1 and TC2 of 95_test_vectors.md section 2.4. -/
def tc1 : Timing where
  h       := 1
  nSettle := 3
  nHold   := #v[5, 4, 3, 3, 2, 2, 2]
  wCnt    := 4
def tc2 : Timing where
  h       := 2
  nSettle := 4
  nHold   := #v[6, 3, 3, 2, 2, 1, 1]
  wCnt    := 5

/-- The frames of V1, V2 and V9. -/
def v1 : Frame := #v[0xFF, 0x34, 0x12, 0x78, 0x56, 0, 0, 0x14]
def v2 : Frame := #v[0xFF, 0xE8, 0x03, 0x18, 0xFC, 0, 0, 0xFF]
def v9 : Frame := #v[0, 0, 0, 0, 0, 0, 0, 0]

def busyAt (opr : BitVec 2) (step : BitVec 5) (cs : Bool) : Regs :=
  { Regs.reset with busy := true, opr := opr, step := step, cs := cs }

/-- A busy machine, its sensor answering `q`. -/
def atStep (opr : BitVec 2) (step : BitVec 5) (cs : Bool) (q : List Byte) : State :=
  { State.reset with regs := busyAt opr step cs, sensor := .stream q }

/-- The reset state, its host offering `op` at the next step, its sensor answering V1. -/
def offering (op : BitVec 2) : State :=
  { State.reset with ports := [{ rst := false, start := true, op := op }], sensor := .stream v1.toList }

def quietIn (miso : Bool) : CycleIn where
  host := Ports.quiet
  miso := miso

def offerIn (op : BitVec 2) : CycleIn where
  host := { rst := false, start := true, op := op }
  miso := false

/-! ### Well-formedness and decoding -/

theorem test_wellFormed_refuses_step_19 : (Encoded.ustep 19).wellFormed = false := by decide
theorem test_wellFormed_refuses_step_31 : (Encoded.ustep 31).wellFormed = false := by decide
theorem test_wellFormed_admits_step_18 : (Encoded.ustep 18).wellFormed = true := by decide
theorem test_wellFormed_admits_commands_and_frames :
    (∀ op, (Encoded.cmd op).wellFormed = true) ∧ (Encoded.frame 0).wellFormed = true := by decide

/-- R49: what the check refuses the decoder refuses, by name. -/
theorem test_decode_refuses_reserved_steps :
    decode (.ustep 0b10011) = .error (.stepReserved 19) ∧
    decode (.ustep 0b11111) = .error (.stepReserved 31) := ⟨rfl, rfl⟩

/-- R47: the table of `op_i`. -/
theorem test_decode_cmd_words :
    decode (.cmd 0b00) = .ok .nop ∧ decode (.cmd 0b01) = .ok .readRaw ∧
    decode (.cmd 0b10) = .ok .decode ∧ decode (.cmd 0b11) = .ok .sample := ⟨rfl, rfl, rfl, rfl⟩

/-- R63: the list of `STEP`, CSA to DLY 4. -/
theorem test_decode_ustep_words_low :
    decode (.ustep 0b00000) = .ok .csa ∧ decode (.ustep 0b00001) = .ok .dly0 ∧
    decode (.ustep 0b00010) = .ok .xchg0 ∧ decode (.ustep 0b00011) = .ok .dly1 ∧
    decode (.ustep 0b00100) = .ok .xchg1 ∧ decode (.ustep 0b00101) = .ok .dly2 ∧
    decode (.ustep 0b00110) = .ok .xchg2 ∧ decode (.ustep 0b00111) = .ok .dly3 ∧
    decode (.ustep 0b01000) = .ok .xchg3 ∧ decode (.ustep 0b01001) = .ok .dly4 :=
  ⟨rfl, rfl, rfl, rfl, rfl, rfl, rfl, rfl, rfl, rfl⟩

/-- R63: the list of `STEP`, XCHG 4 to DEC. -/
theorem test_decode_ustep_words_high :
    decode (.ustep 0b01010) = .ok .xchg4 ∧ decode (.ustep 0b01011) = .ok .dly5 ∧
    decode (.ustep 0b01100) = .ok .xchg5 ∧ decode (.ustep 0b01101) = .ok .dly6 ∧
    decode (.ustep 0b01110) = .ok .xchg6 ∧ decode (.ustep 0b01111) = .ok .dly7 ∧
    decode (.ustep 0b10000) = .ok .xchg7 ∧ decode (.ustep 0b10001) = .ok .csd ∧
    decode (.ustep 0b10010) = .ok .dec := ⟨rfl, rfl, rfl, rfl, rfl, rfl, rfl, rfl, rfl⟩

/-- P1: `frame_o = 0x14000056781234FF` is the frame of the document's example. -/
theorem test_decode_frame_word : decode (.frame 0x14000056781234FF) = .ok (.frame v1) := by rfl
theorem test_encode_frame_word : encode (.frame v1) = .frame 0x14000056781234FF := by decide

theorem test_decodeTableWord_frame : decodeTableWord 64 0x14000056781234FF = some (.frame v1) := by rfl
theorem test_decodeTableWord_steps :
    decodeTableWord 5 0b00000 = some .csa ∧ decodeTableWord 5 0b10011 = none ∧
    decodeTableWord 8 0b00000100 = some .xchg1 ∧ decodeTableWord 8 0b00010010 = some .dec ∧
    decodeTableWord 8 0b00011111 = none := ⟨rfl, rfl, rfl, rfl, rfl⟩
theorem test_decodeTableWord_commands :
    decodeTableWord 2 0b01 = some .readRaw ∧ decodeTableWord 8 0b11 = some .sample := ⟨rfl, rfl⟩

/-! ### The function `decode` (95_test_vectors.md section 2.1) -/

theorem test_decode_v1 : fdDecode v1 = { x := 0x1234, y := 0x5678, valid := true } := by decide
theorem test_decode_v2 : fdDecode v2 = { x := 0x03E8, y := 0xFC18, valid := true } := by decide
theorem test_decode_v2_signed : signed16 (fdDecode v2).x = 1000 ∧ signed16 (fdDecode v2).y = -1000 := by decide
/-- V4, V6, V22: one bit wrong in the marker, in byte 6, in the checksum. -/
theorem test_decode_v4_v6_v22 :
    (fdDecode (v1.set 0 0x7F)).valid = false ∧ (fdDecode (v1.set 6 0x80)).valid = false ∧
    (fdDecode (v1.set 7 0x94)).valid = false := by decide
theorem test_decode_v10 :
    fdDecode (Vector.replicate 8 0xFF) = { x := 0xFFFF, y := 0xFFFF, valid := false } := by decide
theorem test_decode_v12 :
    fdDecode #v[0xFF, 0xFF, 0xFF, 0xFF, 0xFF, 0, 0, 0xFC] = { x := 0xFFFF, y := 0xFFFF, valid := true } := by decide
theorem test_decode_v13_signed :
    (fdDecode #v[0xFF, 0xFF, 0x7F, 0x00, 0x80, 0, 0, 0xFE]).valid = true ∧
    signed16 (fdDecode #v[0xFF, 0xFF, 0x7F, 0x00, 0x80, 0, 0, 0xFE]).x = 32767 ∧
    signed16 (fdDecode #v[0xFF, 0xFF, 0x7F, 0x00, 0x80, 0, 0, 0xFE]).y = -32768 := by decide
/-- V19: all three tests fail; X and Y are written all the same. -/
theorem test_decode_v19 :
    fdDecode #v[0x00, 0x34, 0x12, 0x78, 0x56, 0x07, 0x09, 0x00] = { x := 0x1234, y := 0x5678, valid := false } := by
  decide
theorem test_fdAlone_p1 : fdAlone 0x14000056781234FF = { x := 0x1234, y := 0x5678, valid := true } := by decide
theorem test_refFrame : refFrame 0x8000 0x7FFF = #v[0xFF, 0x00, 0x80, 0xFF, 0x7F, 0, 0, 0xFE] := by decide
theorem test_memRead_example : memRead v1 1 2 (by decide) = 0x1234 := by decide

/-! ### Micro-operations (95_test_vectors.md section 2.2) -/

theorem test_m1_csa : regsOf (exec .csa (atStep 1 0 false [])) = some (busyAt 1 1 true) := by rfl
theorem test_m2_dly0 : regsOf (exec .dly0 (atStep 1 1 true [])) = some (busyAt 1 2 true) := by rfl
theorem test_m4_dly1 : regsOf (exec .dly1 (atStep 1 3 true [])) = some (busyAt 1 4 true) := by rfl
theorem test_m7_dly7 : regsOf (exec .dly7 (atStep 1 15 true [])) = some (busyAt 1 16 true) := by rfl
theorem test_m3_xchg0 : regsOf (exec .xchg0 (atStep 1 2 true [0xFF])) =
    some { busyAt 1 3 true with fb := #v[0xFF, 0, 0, 0, 0, 0, 0, 0], sr := 0xFF } := by decide
/-- M6: an old byte 7 is overwritten, bytes 0 to 6 are kept. -/
theorem test_m6_xchg7 :
    (regsOf (exec .xchg7 { atStep 1 16 true [0x14] with
      regs := { busyAt 1 16 true with fb := v1.set 7 0xAA } })).map (fun r => (r.fb, r.step)) =
    some (v1, 17) := by decide
/-- M12: no byte value is special to the transport. -/
theorem test_m12_xchg2 :
    (regsOf (exec .xchg2 { atStep 1 6 true [0x00] with regs := { busyAt 1 6 true with fb := v1 } })).map
      (fun r => (r.fb[2], r.step)) = some (0x00, 7) := by decide
theorem test_m8_csd_readRaw : regsOf (exec .csd (atStep 1 17 true [])) =
    some { Regs.reset with done := true, opr := 1 } := by rfl
theorem test_m9_csd_sample : regsOf (exec .csd (atStep 3 17 true [])) = some (busyAt 3 18 false) := by rfl
/-- M11: an earlier valid sample is overwritten by an invalid one. -/
theorem test_m11_dec :
    regsOf (exec .dec { State.reset with
      regs := { busyAt 2 18 false with fb := v1.set 7 0x15, x := 0x0AAA, y := 0x0BBB, valid := true } }) =
    some { Regs.reset with fb := v1.set 7 0x15, x := 0x1234, y := 0x5678, done := true, opr := 2 } := by decide

/-! ### Host commands and the step (95_test_vectors.md sections 2.3 and 3) -/

/-- H1: NOP leaves the reset state as it is. -/
theorem test_h1_nop : regsOf (step (offering 0b00)) = some Regs.reset := by rfl
/-- H10 and P1 edge 0: what acceptance loads. -/
theorem test_accept_readRaw : regsOf (step (offering 0b01)) = some (busyAt 1 0 false) := by rfl
theorem test_accept_sample : regsOf (step (offering 0b11)) = some (busyAt 3 0 false) := by rfl
/-- P7 edge 0. -/
theorem test_accept_decode : regsOf (step (offering 0b10)) = some (busyAt 2 18 false) := by rfl
/-- H8: a SAMPLE offered to a busy machine changes nothing. -/
theorem test_h8_sample_while_busy : exec .sample (atStep 1 5 true []) = .next (atStep 1 5 true []) := by rfl
/-- V5 as a FRAME on the decoder's input. -/
theorem test_frame_v5 : regsOf (exec (.frame (v1.set 5 1)) State.reset) =
    some { Regs.reset with x := 0x1234, y := 0x5678 } := by decide
/-- A reset in the middle of a read cycle (P5). -/
theorem test_reset_in_read_cycle :
    regsOf (step { atStep 3 6 true [] with ports := [{ rst := true, start := true, op := 3 }] }) =
    some Regs.reset := by rfl
theorem test_step_19_is_refused : step (atStep 1 19 true []) = .refused (.stepReserved 19) := by rfl
/-- R49: so is an idle state that holds one, at both levels, with a command offered. -/
theorem test_idle_step_31_is_refused :
    step { offering 3 with regs := { Regs.reset with step := 31 } } = .refused (.stepReserved 31) ∧
    cycle tc1 (offerIn 3) { Regs.reset with step := 31 } = .refused (.stepReserved 31) := ⟨by rfl, by rfl⟩
theorem test_withFetchWord_runs_csa :
    regsOf (step (State.reset.withFetchWord 5 0)) = some { busyAt 0 1 true with cnt := 0 } := by rfl
theorem test_withFetchWord_runs_sample :
    regsOf (step (State.reset.withFetchWord 2 0b11)) = some (busyAt 3 0 false) := by rfl

/-! ### The cycle level (95_test_vectors.md section 2.4 and programs P1, P3) -/

theorem test_tc1_durations :
    readRawCycles tc1 = 154 ∧ sampleCycles tc1 = 155 ∧
    (List.range 8).map (cyclesBeforeExchange tc1) = [4, 25, 45, 64, 83, 101, 119, 137] := by decide
theorem test_tc2_durations :
    readRawCycles tc2 = 280 ∧ sampleCycles tc2 = 281 ∧
    (List.range 8).map (cyclesBeforeExchange tc2) = [5, 43, 78, 113, 147, 181, 214, 247] := by decide
/-- P1 edge 5: the first bit is sampled as the clock rises. -/
theorem test_p1_edge_5 : cycle tc1 (quietIn true) (busyAt 3 2 true) =
    .next { busyAt 3 2 true with cnt := 1, sr := 0x01, sclk := true } := by rfl
/-- P1 edge 20: XCHG 0 is done. -/
theorem test_p1_edge_20 :
    cycle tc1 (quietIn false) { busyAt 3 2 true with cnt := 15, sr := 0xFF, sclk := true } =
    .next { busyAt 3 3 true with fb := #v[0xFF, 0, 0, 0, 0, 0, 0, 0], sr := 0xFF } := by rfl
/-- P3: a DECODE offered while BUSY = 1 is dropped; the READ_RAW goes on by one cycle. -/
theorem test_p3_dropped_offer :
    cycle tc1 { host := { rst := false, start := true, op := 2 }, miso := true }
      { busyAt 1 2 true with cnt := 6, sr := 0x07 } =
    .next { busyAt 1 2 true with cnt := 7, sr := 0x0F, sclk := true } := by rfl
/-- R18: `CNT` has `W_CNT` bits, so with four of them 15 + 1 is 0. -/
theorem test_counter_has_wCnt_bits :
    Regs.countUp tc1 { Regs.reset with cnt := 15 } = 0 ∧ Regs.countUp tc2 { Regs.reset with cnt := 15 } = 16 := by decide
/-- The bit-engine table: 0 0 1 1 0 1 0 0 is 0x34, and the first bit received is bit 7. -/
theorem test_byteOfBits :
    byteOfBits (fun b => #v[false, false, true, true, false, true, false, false][b]) = 0x34 ∧
    byteOfBits (fun b => b == 0) = 0x80 ∧ byteOfBits (fun b => b == 7) = 0x01 := by decide
/-- R53: the encoding of P2. -/
theorem test_encodeScript_p2 :
    encodeScript (Stmt.reset :: .sensor (v1.set 7 0x15) :: pseudo 3 ++ .sensor v2 :: pseudo 3) =
    ([3, 3], [0xFF, 0x34, 0x12, 0x78, 0x56, 0, 0, 0x15, 0xFF, 0xE8, 0x03, 0x18, 0xFC, 0, 0, 0xFF]) := by decide
/-- P7 at the architectural level: a DECODE and two offers of SAMPLE, of which the second is accepted. -/
theorem test_p7_script :
    regsOf (runScriptArch [.reset, .start 2, .start 3, .start 3] State.reset) = some (busyAt 3 0 false) := by rfl

/-! ### Witnesses: inputs that meet the hypotheses of the statements -/

theorem witness_timing : tc1.Ok ∧ tc2.Ok := by decide
theorem witness_EachEncodingHasOneMeaning : decode (.ustep 18) = .ok .dec := by rfl
theorem witness_ValidFrames : (fdDecode v1).valid = true ∧ refFrame 0x1234 0x5678 = v1 := by decide
/-- SingleByteErrorIsCaught, at the first byte and the last. -/
theorem witness_SingleByteErrorIsCaught :
    (fdDecode v1).valid = true ∧ (0xFE : Byte) ≠ v1[(0 : Fin 8)] ∧ (0x15 : Byte) ≠ v1[(7 : Fin 8)] := by decide
/-- The frames of V17 and V20, and the hypotheses of CompensatingErrorsPass. -/
def v17 : Frame := #v[0xFF, 0x35, 0x11, 0x78, 0x56, 0, 0, 0x14]
def v20 : Frame := #v[0xFF, 0x12, 0x34, 0x78, 0x56, 0, 0, 0x14]
abbrev Compensates (g f : Frame) : Prop :=
  g[0] = f[0] ∧ g[5] = f[5] ∧ g[6] = f[6] ∧ g[7] = f[7] ∧ g ≠ f ∧
  (g[1] - f[1]) + (g[2] - f[2]) + (g[3] - f[3]) + (g[4] - f[4]) = 0
/-- V1 and V17, and V1 and V20. -/
theorem witness_CompensatingErrorsPass :
    (fdDecode v1).valid = true ∧ Compensates v17 v1 ∧ Compensates v20 v1 := ⟨by decide, by decide, by decide⟩
/-- AcceptanceLoadsTheSequencer, with bit 0 of the command 1 and 0, and with nothing offered. -/
theorem witness_Acceptance :
    (∀ op ∈ [(1 : BitVec 2), 2, 3], (offering op).nextPorts.rst = false ∧ (offering op).regs.Idle ∧
      (offering op).nextPorts.start = true ∧ (offering op).nextPorts.op ≠ 0) ∧
    State.reset.nextPorts.rst = false ∧ State.reset.regs.Idle ∧ State.reset.nextPorts.start = false := by
  decide
/-- IdleKeepsAllState, a NOP being offered. -/
theorem witness_IdleKeepsAllState :
    (offering 0).nextPorts.rst = false ∧ (offering 0).regs.Idle ∧ (offering 0).nextPorts.op = 0 := by decide
/-- The statements about commands, on an idle and on a busy machine. -/
theorem witness_commands :
    State.reset.regs.busy = false ∧ State.reset.regs.Idle ∧ (atStep 3 2 true []).regs.busy = true ∧
    Ports.quiet.rst = false ∧ (offerIn 3).host.rst = false := by decide
/-- The statements about micro-operations, at the first step, the last one and the last of each kind. -/
theorem witness_micro_steps :
    (atStep 3 0 false []).regs.step = 0 ∧ (atStep 1 17 true []).regs.step = 17 ∧ (atStep 3 16 true []).regs.step = 16 ∧
    (atStep 2 18 false []).regs.step = 18 ∧
    (atStep 3 1 true []).regs.step.toNat = 2 * (0 : Fin 8).val + 1 ∧
    (atStep 3 15 true []).regs.step.toNat = 2 * (7 : Fin 8).val + 1 ∧
    (atStep 3 2 true []).regs.step.toNat = 2 * (0 : Fin 8).val + 2 ∧
    (atStep 3 16 true []).regs.step.toNat = 2 * (7 : Fin 8).val + 2 := by decide
/-- The same at cycle level: a busy machine at the start of CSA, CSD and DEC, and one that meets the core invariant. -/
theorem witness_micro_edges :
    ((quietIn false).host.rst = false ∧ (busyAt 3 0 false).busy = true ∧ (busyAt 3 0 false).cnt = 0) ∧
    (busyAt 3 0 false).CoreInv ∧ (busyAt 1 17 true).CoreInv ∧ (busyAt 2 18 false).CoreInv :=
  ⟨by decide, by decide, by decide, by decide⟩
/-- DelaysOnlyPassTime at cycle level, both clauses: DLY 0 before its end and at it under TC1. -/
theorem witness_DelaysOnlyPassTime :
    tc1.Ok ∧ NoResetIn (List.replicate 3 (quietIn true)) ∧ (busyAt 3 1 true).busy = true ∧
    (busyAt 3 1 true).step.toNat = 2 * (0 : Fin 8).val + 1 ∧ (busyAt 3 1 true).cnt = 0 ∧
    (List.replicate 2 (quietIn true)).length < tc1.nSettle ∧
    (List.replicate 3 (quietIn true)).length = tc1.nSettle := by decide
theorem witness_ExchangeAnswer : (atStep 3 2 true [0xFF, 0x34]).sensor = .stream (0xFF :: [0x34]) := by rfl
/-- SequencingFollowsTheStepNumber: both endings, and a step that goes on. -/
theorem witness_Sequencing :
    decodeStep (busyAt 3 18 false).step = some .dec ∧ decodeStep (busyAt 1 17 true).step = some .csd ∧
    (busyAt 1 17 true).opr.getLsbD 1 = false ∧ decodeStep (busyAt 3 17 true).step = some .csd ∧
    (busyAt 3 17 true).opr.getLsbD 1 = true := by decide
/-- StepRunsTheDecodedInstruction: a busy machine, an idle one with a command, and one at DEC. -/
theorem witness_StepRuns :
    (atStep 3 4 true []).nextPorts.rst = false ∧ (atStep 3 4 true []).regs.busy = true ∧
    decode (.ustep (atStep 3 4 true []).regs.step) = .ok .xchg1 ∧
    (offering 3).regs.Idle ∧ (offering 3).nextPorts.start = true ∧
    decode (.cmd (offering 3).nextPorts.op) = .ok .sample ∧ (atStep 2 18 false []).regs.step = 18 :=
  ⟨rfl, rfl, rfl, by decide, rfl, rfl, rfl⟩
/-- ReservedStepIsRefused, at both ends of the range, and the values it does not reach. -/
theorem witness_ReservedStep :
    (atStep 1 19 true []).nextPorts.rst = false ∧ (offerIn 3).host.rst = false ∧ ¬ 19 ≤ (busyAt 3 18 false).step.toNat ∧
    19 ≤ (atStep 1 19 true []).regs.step.toNat ∧ 19 ≤ (atStep 1 31 true []).regs.step.toNat := by decide
/-- The reset statements: a reset in a read cycle, and one of an idle machine with a stuck line. -/
theorem witness_reset :
    { atStep 3 6 true [0x34] with ports := [{ rst := true, start := true, op := 3 }] }.nextPorts.rst = true ∧
    (atStep 3 6 true [0x34]).regs.cs = true ∧ (atStep 3 6 true [0x34]).sensor = .stream [0x34] ∧
    State.reset.regs.cs = false := by decide
/-- PlacedItemRunsNext: an item of each format. -/
theorem witness_PlacedItem :
    decode (.cmd 3) = .ok .sample ∧ decode (.ustep 17) = .ok .csd ∧
    decode (.frame 0x14000056781234FF) = .ok (.frame v1) := ⟨rfl, rfl, rfl⟩
/-- RegistersChangeOnlyByTheirWriters: each premise is met by the writer it names. -/
theorem witness_writers :
    (regsOf (exec .xchg0 (atStep 3 2 true [0xFF]))).map (fun r => (r.fb[0], r.sr)) = some (0xFF, 0xFF) ∧
    (regsOf (exec (.frame v1) State.reset)).map Regs.x = some 0x1234 ∧
    (regsOf (exec .csa (atStep 3 0 false []))).map Regs.cs = some true ∧
    (regsOf (exec .csd (atStep 1 17 true []))).map (fun r => (r.busy, r.done)) = some (false, true) ∧
    (regsOf (exec .readRaw State.reset)).map Regs.opr = some 1 := by decide
/-- SampleIsWrittenOnlyByDec and FrameBufferIsWrittenOnlyByExchange: a step that writes the sample, one that does not,
and one that runs an exchange. -/
theorem witness_single_steps :
    (atStep 2 18 false []).writesSample = true ∧ (atStep 2 18 false []).running = some .dec ∧
    (atStep 3 2 true [0xFF]).writesSample = false ∧ (atStep 3 2 true [0xFF]).running = some (.xchg 0) ∧
    regsOf (step (atStep 3 2 true [0xFF])) =
      some { busyAt 3 3 true with fb := #v[0xFF, 0, 0, 0, 0, 0, 0, 0], sr := 0xFF } := by decide
/-- SampleIsThatOfTheLastDec: a run of one step that holds a DEC, and one that holds none. -/
theorem witness_runs :
    regsOf (runs 1 (atStep 2 18 false [])) = some { Regs.reset with done := true, opr := 2 } ∧
    regsOf (runs 1 (atStep 3 0 false [])) = some (busyAt 3 1 true) := ⟨by rfl, by rfl⟩
/-- The invariants: idle, in a read cycle, and at DEC. -/
theorem witness_ArchInv :
    Regs.reset.ArchInv ∧ (busyAt 3 5 true).ArchInv ∧ (busyAt 2 18 false).ArchInv ∧
    ¬ (busyAt 3 5 false).ArchInv := ⟨by decide, by decide, by decide, by decide⟩
theorem witness_CycleInv : tc1.Ok ∧ { busyAt 3 2 true with cnt := 15, sclk := true }.CycleInv tc1 := by
  refine ⟨by decide, by decide, by decide, ?_, fun _ => ⟨0, by decide⟩⟩
  intro m _ hm
  have : m = .xchg 0 := by simpa using (show decodeStep 2 = some m from hm).symm.trans (by decide : decodeStep 2 = some (.xchg 0))
  subst this
  decide
/-- PreviousSampleShowsWhileBusy, at the last step it speaks of for each command. -/
theorem witness_PreviousSample :
    (offering 1).Offered 1 18 ∧ (18 : Nat) ≤ (if (1 : BitVec 2).getLsbD 1 then 19 else 18) ∧
    (offering 3).Offered 3 19 ∧ (19 : Nat) ≤ (if (3 : BitVec 2).getLsbD 1 then 19 else 18) := by decide
/-- The statements about whole commands. -/
theorem witness_Offered :
    (offering 1).Offered 1 19 ∧ (offering 2).Offered 2 2 ∧ (offering 3).Offered 3 20 ∧
    (offering 3).sensor = .stream (v1.toList ++ []) ∧
    { offering 3 with sensor := .stuck true }.Offered 3 20 ∧ (3 : BitVec 2).getLsbD 0 = true := by decide
/-- EveryCommandCompletes. -/
theorem witness_EveryCommandCompletes :
    (busyAt 3 0 false).ArchInv ∧ (atStep 3 0 false []).regs.busy = true ∧ (atStep 3 0 false []).NoReset 19 := by decide
/-- OfferAtCompletionIsDropped (P7), at both endings. -/
theorem witness_OfferAtCompletion :
    (busyAt 2 18 false).busy = true ∧ (busyAt 2 18 false).step = 18 ∧ (busyAt 1 17 true).step = 17 ∧
    (busyAt 1 17 true).opr.getLsbD 1 = false ∧
    { atStep 2 18 false [] with ports := [(offerIn 3).host, (offerIn 3).host] }.ports =
      (offerIn 3).host :: (offerIn 3).host :: [] ∧
    (offerIn 3).host.rst = false ∧ (offerIn 3).host.start = true ∧ (offerIn 3).host.op ≠ 0 := by decide
/-- LevelsAgreeOnEveryMicroOperation: an exchange under TC1, its answer being the byte received. -/
theorem witness_LevelsAgree :
    tc1.Ok ∧ (atStep 3 2 true [0xFF]).regs.busy = true ∧ decodeStep (atStep 3 2 true [0xFF]).regs.step = some (.xchg 0) ∧
    (atStep 3 2 true [0xFF]).regs.cnt = 0 ∧ (List.replicate 16 (quietIn true)).length = microCycles tc1 (.xchg 0) ∧
    NoResetIn (List.replicate 16 (quietIn true)) ∧
    (atStep 3 2 true [0xFF]).busAnswer = receivedByte tc1 (List.replicate 16 (quietIn true)) := by decide
/-- MisoMattersOnlyAtSamplingEdges: an edge at which it matters. -/
theorem witness_MisoMatters :
    cycle tc1 (quietIn true) (busyAt 3 2 true) ≠ cycle tc1 (quietIn false) (busyAt 3 2 true) := by
  intro h
  have : (busyAt 3 2 true).sr.extractLsb' 0 7 ++ 1#1 = (busyAt 3 2 true).sr.extractLsb' 0 7 ++ 0#1 :=
    congrArg Regs.sr (Host.Outcome.next.inj h)
  revert this
  decide
/-- The statements about whole read cycles under TC1: hypotheses, and the boundary lengths of ReadCycleEdges. -/
theorem witness_read_cycle_edges :
    (tc1.Ok ∧ Regs.reset.Idle ∧ Regs.reset.cs = false ∧ Regs.reset.sclk = false) ∧
    ((offerIn 1).OffersTransport ∧ (offerIn 3).OffersTransport) ∧ NoResetIn (List.replicate 154 (quietIn true)) ∧
    cyclesBeforeExchange tc1 7 + exchangeCycles tc1 + 1 = 154 ∧
    1 + tc1.nSettle + 128 * tc1.h + tc1.nHold.toList.sum + 1 + 0 = 154 ∧
    (List.replicate 154 (quietIn true)).length = 154 := by
  refine ⟨by decide, by decide, ?_, by decide, by decide, List.length_replicate⟩
  intro i hi
  rw [List.eq_of_mem_replicate hi]
  rfl
/-- The same for one edge, which answers a next state: chip-select falls. -/
theorem witness_read_cycle_next :
    cycles tc1 [offerIn 3, quietIn true] Regs.reset = .next (busyAt 3 1 true) := by rfl
/-- DecodeAndNopDuration. -/
theorem witness_DecodeAndNop :
    (offerIn 2).host.rst = false ∧ (offerIn 2).host.start = true ∧ (offerIn 2).host.op = 0b10 ∧
    (offerIn 0).host.op = 0b00 ∧ (quietIn false).host.rst = false := by decide
/-- CycleStepFollowsTheEdge. -/
theorem witness_CycleStep : regsOf (cycleStep tc1 (offering 3)) = some (busyAt 3 0 false) := by rfl
/-- CounterFitsItsWidth: the counter of TC1 needs four bits for its sixteen cycles of an exchange (R7, W_CNT). -/
theorem witness_CounterFits : 15 < 2 ^ counterWidth tc1 := by
  have h : counterWidth tc1 = 4 := by
    show max 1 (Nat.clog 2 16) = 4
    rw [show (16 : Nat) = 2 ^ 4 from rfl, Nat.clog_pow 2 4 (by decide)]
    rfl
  rw [h]
  decide
/-- CounterFitsItsWidth, its last clause: a busy cycle of an exchange that is not the last. -/
theorem witness_CounterGoesOn :
    (busyAt 3 2 true).busy = true ∧ decodeStep (busyAt 3 2 true).step = some (.xchg 0) ∧
    { busyAt 3 2 true with cnt := 14 }.count tc1 ≠ microCycles tc1 (.xchg 0) - 1 := by decide

end Sys2Proof.Tests
end

section
/-! PROOF. The statements of 10_state.md: what the output ports show of the registers (R25). -/

namespace Sys2Proof.Machine

/-- Chip-select is active low (R7, D12), so `cs_n_o` is the negation of CS. -/
@[simp] theorem State.outputs_csNO (s : State) : s.outputs.csNO = !s.regs.cs := by
  unfold State.outputs
  cases s.regs.cs <;> rfl

/-- Byte k of `frame_o` is `FB[k]` (R24). -/
@[simp] theorem State.frameByte_outputs_frameO (s : State) (k : Nat) (hk : k < 8) :
    frameByte s.outputs.frameO k = s.regs.fb[k] :=
  frameByte_packFrame s.regs.fb k hk

/-- Settles O51: six ports are registers by definition and `mosi_o` is a constant; the two that are encoded,
`cs_n_o` by its level and `frame_o` by its packing, each have their lemma. -/
theorem portsShowTheRegisters : Obligations.PortsShowTheRegisters := fun s =>
  ⟨rfl, rfl, rfl, rfl, rfl, s.outputs_csNO, rfl, rfl, fun k => s.frameByte_outputs_frameO k k.isLt⟩

end Sys2Proof.Machine
end

section
/-! PROOF. The statements of 40_host_commands.md: acceptance (R55), NOP (R56), offers to a busy machine (R60), DECODE
(R58), and with them how a micro-operation hands over or completes (R61, R68). -/

namespace Sys2Proof.Machine

/-! ### What the host's inputs do in one step -/

/-- Two inputs with no reset make the same step where an idle machine makes the same of them: at a reserved `STEP` and in
a busy machine the command port is not looked at (R49, R60). -/
theorem step_ports_congr {s : State} {p q : Ports} (hp : p.rst = false) (hq : q.rst = false)
    (hidle : s.regs.busy = false →
      (if p.start then offer p.op s else idle s) = if q.start then offer q.op s else idle s) :
    step { s with ports := p :: s.ports } = step { s with ports := q :: s.ports } := by
  have hu : (State.nextPorts { s with ports := p :: s.ports }).rst = false := hp
  have hv : (State.nextPorts { s with ports := q :: s.ports }).rst = false := hq
  cases hm : decodeStep s.regs.step with
  | none => exact (step_reserved hu hm).trans (step_reserved hv hm).symm
  | some m =>
    cases hb : s.regs.busy with
    | true => exact (step_busy hu hb hm).trans (step_busy hv hb hm).symm
    | false =>
      have hs := decodeStep_le hm
      exact (step_idle hu hb hs).trans ((congrArg Host.Outcome.next (hidle hb)).trans (step_idle hv hb hs).symm)

/-- A step of an idle machine to which nothing is offered (R103). -/
theorem step_of_not_start {s : State} (hr : s.nextPorts.rst = false) (hi : s.regs.Idle)
    (hs : s.nextPorts.start = false) : step s = .next (idle s.popPorts) := by
  rw [step_idle hr hi.1 hi.2, hs]
  rfl

/-- A step of an idle machine that accepts the command offered (R55). -/
theorem step_of_start {s : State} (hr : s.nextPorts.rst = false) (hi : s.regs.Idle)
    (hs : s.nextPorts.start = true) (hop : s.nextPorts.op ≠ 0) :
    step s = .next ((s.popPorts.elapse 1).setRegs (accept s.nextPorts.op s.regs)) := by
  rw [step_idle hr hi.1 hi.2, if_pos hs, offer_idle _ s.popPorts hi.1, if_neg hop]
  rfl

/-- The step after an acceptance runs the command's first micro-operation: CSA where bit 0 asks for a transport, and
otherwise DEC (R55, R63). -/
theorem step_of_accepted {s : State} {op : BitVec 2} {r : Regs} (hr : s.nextPorts.rst = false)
    (h : s.regs = accept op r) : step s = exec (if op.getLsbD 0 then .csa else .dec) s.popPorts := by
  have hb : s.regs.busy = true := by rw [h]; rfl
  have hstep : s.regs.step = if op.getLsbD 0 then 0 else 18 := by rw [h]; rfl
  cases hop : op.getLsbD 0 with
  | true => exact step_busy (m := .csa) hr hb (by rw [hstep, hop]; rfl)
  | false => exact step_busy (m := .dec) hr hb (by rw [hstep, hop]; rfl)

/-! ### Commands offered to a busy machine, and NOP -/

/-- A command executed by a busy machine changes nothing (R60). -/
theorem exec_decodeCmd_busy (op : BitVec 2) {s : State} (h : s.regs.busy = true) : exec (decodeCmd op) s = .next s := by
  rw [exec_decodeCmd, offer_busy op s h]

/-- Settles O17: the two inputs make the same step because only an idle machine looks at the command port. -/
theorem offersWhileBusyAreIgnored : Obligations.OffersWhileBusyAreIgnored := by
  unfold Obligations.OffersWhileBusyAreIgnored
  refine ⟨fun s p q hb hp hq => step_ports_congr hp hq fun hidle => ?_, fun s hb i hi => ?_⟩
  · rw [hb] at hidle
    cases hidle
  · simp only [List.mem_cons, List.not_mem_nil, or_false] at hi
    rcases hi with rfl | rfl | rfl | rfl
    exacts [exec_decodeCmd_busy 0b00 hb, exec_decodeCmd_busy 0b01 hb, exec_decodeCmd_busy 0b10 hb,
      exec_decodeCmd_busy 0b11 hb]

/-- Settles O16: to an idle machine a NOP is the passing of one step, which is what `start_i = 0` is; a busy machine
looks at neither. -/
theorem nopChangesNoRegister : Obligations.NopChangesNoRegister := by
  unfold Obligations.NopChangesNoRegister
  refine fun s => ⟨fun hb => ?_, fun hb => exec_decodeCmd_busy 0 hb, fun n => s.elapse_regs n,
    fun op => step_ports_congr rfl rfl fun hb => ?_⟩
  · exact congrArg Host.Outcome.next (offer_idle 0 s hb)
  · exact offer_idle 0 s hb

/-! ### Acceptance -/

/-- Settles O14: the accepting step writes what `accept` writes, and the next one starts at the `STEP` it loaded. -/
theorem acceptanceLoadsTheSequencer : Obligations.AcceptanceLoadsTheSequencer := by
  unfold Obligations.AcceptanceLoadsTheSequencer
  refine ⟨fun s hr hi hs => ⟨_, step_of_not_start hr hi hs, rfl⟩, fun s hr hi hs hop => ?_⟩
  exact ⟨_, step_of_start hr hi hs hop, rfl, rfl, rfl, rfl, fun hr' => step_of_accepted hr' rfl⟩

/-! ### Sequencing -/

/-- The steps at which a micro-operation ends its command (R61, R68). -/
abbrev Regs.EndsCommand (r : Regs) : Prop := r.step = 18 ∨ (r.step = 17 ∧ r.opr.getLsbD 1 = false)

/-- At an ending step the micro-operation completes the command (R61). -/
theorem runMicro_sequence_of_ends (m : Micro) (rx : Byte) {r : Regs} (h : r.EndsCommand) :
    (runMicro m rx r).busy = false ∧ (runMicro m rx r).done = true ∧ (runMicro m rx r).step = 0 := by
  simpa only [if_pos h, Prod.mk.injEq] using runMicro_sequence m rx r

/-- At any other step the micro-operation goes on to the next (R68). -/
theorem runMicro_sequence_of_not_ends (m : Micro) (rx : Byte) {r : Regs} (h : ¬ r.EndsCommand) :
    (runMicro m rx r).busy = r.busy ∧ (runMicro m rx r).done = r.done ∧ (runMicro m rx r).step = r.step + 1 := by
  simpa only [if_neg h, Prod.mk.injEq] using runMicro_sequence m rx r

/-- Settles O23: what the micro-operation does to the sequencer depends on `STEP` and `OPR` only; after a completion the
machine is idle, so the next step accepts. -/
theorem sequencingFollowsTheStepNumber : Obligations.SequencingFollowsTheStepNumber := by
  unfold Obligations.SequencingFollowsTheStepNumber
  intro s m hb _
  refine ⟨microStep m s, exec_toInstr m s, runMicro_opr .., runMicro_cnt .., fun hends => ?_, fun hgoes => ?_⟩
  · obtain ⟨hbusy, hdone, hstep⟩ := runMicro_sequence_of_ends m s.busAnswer hends
    have hidle : (microStep m s).regs.Idle := ⟨hbusy, by simp [microStep, hstep]⟩
    exact ⟨hbusy, hdone, hstep, fun hr hs hop => ⟨_, step_of_start hr hidle hs hop, rfl⟩⟩
  · obtain ⟨hbusy, hdone, hstep⟩ := runMicro_sequence_of_not_ends m s.busAnswer hgoes
    exact ⟨hbusy.trans hb, hdone, hstep⟩

/-! ### The DECODE command -/

/-- The registers that a whole DECODE command leaves: it is accepted, the results take the decoded frame buffer, and it
completes (R55, R58, R61). -/
def Regs.afterDecode (r : Regs) : Regs := complete (latchSample (fdDecode r.fb) (accept 0b10 r))

/-- A DECODE of a frame buffer that was decoded already changes nothing (R58). -/
theorem Regs.afterDecode_idem (r : Regs) : r.afterDecode.afterDecode = r.afterDecode := rfl

/-- DEC right after the acceptance of DECODE is the end of the command (R68, R80). -/
theorem runMicro_dec_accept (rx : Byte) (r : Regs) : runMicro .dec rx (accept 0b10 r) = r.afterDecode :=
  (endMicro_eq _).trans (if_pos (Or.inl rfl))

/-- An offered DECODE takes two steps, its acceptance and DEC, and nothing happens on the lines (R58). -/
theorem runs_decode {s : State} (h : s.Offered 0b10 2) :
    ∃ t, runs 2 s = .next t ∧ t.sensor = s.sensor ∧ t.wire = s.wire ∧ t.regs = s.regs.afterDecode := by
  obtain ⟨hi, hp, hn⟩ := h
  have haccept : step s = .next ((s.popPorts.elapse 1).setRegs (accept 0b10 s.regs)) := by
    simpa [hp] using step_of_start (s := s) (by rw [hp]) hi (by rw [hp]) (by rw [hp]; decide)
  have hdec := step_of_accepted (s := (s.popPorts.elapse 1).setRegs (accept 0b10 s.regs))
    (nextPorts_rst_of_take (n := 0) (tail_take_of_take hn)) rfl
  rw [runs_succ_next haccept, runs_succ_next hdec, runs_zero]
  exact ⟨_, rfl, rfl, rfl, runMicro_dec_accept 0 s.regs⟩

/-- Settles O43: by `runs_decode` for the first DECODE and again for the second, which finds the same frame buffer. -/
theorem decodeCommandDecodesTheBuffer : Obligations.DecodeCommandDecodesTheBuffer := by
  unfold Obligations.DecodeCommandDecodesTheBuffer
  refine ⟨by decide, fun s h => ?_⟩
  obtain ⟨t, hrun, hsensor, hwire, hregs⟩ := runs_decode h
  refine ⟨t, hrun, hsensor, hwire, hregs, fun h' => ?_⟩
  obtain ⟨u, hrun', -, -, hregs'⟩ := runs_decode h'
  exact ⟨u, hrun', by rw [hregs', hregs, Regs.afterDecode_idem]⟩

/-- The premise of a second DECODE can be met: a host that offers DECODE in the first step and in the third. -/
theorem decode_offered_twice :
    let p : Ports := { rst := false, start := true, op := 0b10 }
    let s : State := { State.reset with ports := [p, Ports.quiet, p] }
    s.Offered 0b10 2 ∧ ∃ t, runs 2 s = .next t ∧ t.Offered 0b10 2 :=
  ⟨by decide, _, rfl, by decide⟩

end Sys2Proof.Machine
end

section
/-! PROOF. The statements of 41_transport_microops.md on the micro-operations that receive nothing: CSA (R64), DLY (R65)
and CSD (R67). Each is the sequencing of R68 on registers that are known, at one edge or after counting up to it. -/

namespace Sys2Proof.Machine

/-! ### Sequencing, and the edge that ends a micro-operation -/

theorem endMicro_of_ends {r : Regs} (h : r.EndsCommand) : endMicro r = complete r := if_pos h

theorem endMicro_of_not_ends {r : Regs} (h : ¬ r.EndsCommand) : endMicro r = advance r := if_neg h

/-- The edge that ends the last cycle of a micro-operation (R71). -/
theorem cycle_last {t : Timing} {m : Micro} {i : CycleIn} {r : Regs} (hr : i.host.rst = false) (hb : r.busy = true)
    (hm : decodeStep r.step = some m) (hc : r.count t = microCycles t m - 1) :
    cycle t i r = .next (endMicro (microCycle t m i.miso true r)) := by
  rw [cycle_busy hr hb hm, if_pos hc]

/-- A micro-operation under no reset takes exactly the cycles of R72: its last edge finds the registers of the middle of
the micro-operation and ends it. -/
theorem cycles_wholeMicro {t : Timing} {m : Micro} {is : List CycleIn} {r : Regs} (ht : t.Ok) (hn : NoResetIn is)
    (hb : r.busy = true) (hm : decodeStep r.step = some m) (hc : r.cnt = 0) (hl : is.length = microCycles t m) :
    cycles t is r = .next (endMicro (microCycle t m (misoAt is (is.length - 1)) true
      (midMicro t m is r (is.length - 1)))) := by
  have hpos := microCycles_pos ht m
  have hfits := microCycles_le ht m
  obtain ⟨n, hlen⟩ : ∃ n, is.length = n + 1 := ⟨is.length - 1, by omega⟩
  have hmid := cycles_midMicro ht hn hb hm hc n (by omega) (by omega)
  have hcount : (midMicro t m is r n).count t = microCycles t m - 1 := by
    rw [Regs.count_of_lt (by rw [midMicro_cnt]; omega), midMicro_cnt]
    omega
  have hlast := cycle_last (t := t) (i := is[n]) (hn _ (List.getElem_mem _)) ((midMicro_busy m is r n).trans hb)
    ((congrArg decodeStep (midMicro_step m is r n)).trans hm) hcount
  have hsplit : is = is.take n ++ [is[n]] := by
    rw [← List.take_succ_eq_append_getElem (by omega), ← hlen, List.take_length]
  rw [hlen, Nat.add_sub_cancel, misoAt_eq is n (by omega)]
  conv_lhs => rw [hsplit, cycles_append_next hmid]
  simp only [cycles, hlast]

/-! ### CSA -/

/-- What CSA leaves, at both levels (R64, R68). -/
theorem endMicro_csa {r : Regs} (hs : r.step = 0) :
    endMicro (setSelect true r) = { r with cs := true, step := 1, cnt := 0 } := by
  have hgoes : ¬ (setSelect true r).EndsCommand := by simp [Regs.EndsCommand, hs]
  rw [endMicro_of_not_ends hgoes, advance, setSelect_step, hs]
  rfl

/-- Chip-select is deasserted at step 0, whether CSA is about to run or the machine is idle (R26). -/
theorem Regs.CoreInv.cs_of_step_zero {r : Regs} (h : r.CoreInv) (hs : r.step = 0) : r.cs = false := by
  obtain ⟨-, -, -, -, hcs, -⟩ := h
  rw [Bool.eq_false_iff]
  intro hsel
  obtain ⟨-, hlow, -⟩ := hcs.1 hsel
  simp [hs] at hlow

/-- Settles O18: both levels end CSA by `endMicro_csa`; the line's event is the one `microStep` logs. -/
theorem csaAssertsChipSelect : Obligations.CsaAssertsChipSelect := by
  unfold Obligations.CsaAssertsChipSelect
  refine ⟨fun s hs => ?_, fun t i r hr hb hs hc => ?_, fun r hinv hs => hinv.cs_of_step_zero hs⟩
  · exact ⟨microStep .csa s, exec_toInstr .csa s, endMicro_csa hs, rfl, Nat.le_add_right _ _, rfl, rfl⟩
  · have hm : decodeStep r.step = some .csa := by rw [hs]; rfl
    rw [cycle_last hr hb hm (Regs.count_of_zero hc)]
    exact congrArg _ (endMicro_csa hs)

/-! ### CSD -/

/-- What CSD leaves, at both levels: DEC is next where OPR[1] asks for it, and otherwise the command completes (R61,
R67, R68). -/
theorem endMicro_csd {r : Regs} (hs : r.step = 17) :
    endMicro (setSelect false r) = if r.opr.getLsbD 1 then { r with cs := false, step := 18, cnt := 0 }
      else { r with cs := false, busy := false, done := true, step := 0, cnt := 0 } := by
  by_cases hop : r.opr.getLsbD 1 = true
  · have hgoes : ¬ (setSelect false r).EndsCommand := by simp [Regs.EndsCommand, hs, hop]
    rw [endMicro_of_not_ends hgoes, if_pos hop, advance, setSelect_step, hs]
    rfl
  · have hends : (setSelect false r).EndsCommand := .inr ⟨hs, by simpa using hop⟩
    rw [endMicro_of_ends hends, if_neg hop]
    rfl

/-- Settles O19: both levels end CSD by `endMicro_csd`; XCHG 7 at step 16 is no ending step. -/
theorem csdDeassertsChipSelect : Obligations.CsdDeassertsChipSelect := by
  unfold Obligations.CsdDeassertsChipSelect
  refine ⟨fun s hs => ?_, fun t i r hr hb hs hc => ?_, fun s hs => ?_⟩
  · exact ⟨microStep .csd s, exec_toInstr .csd s, endMicro_csd hs, rfl, Nat.le_add_right _ _, rfl, rfl⟩
  · have hm : decodeStep r.step = some .csd := by rw [hs]; rfl
    rw [cycle_last hr hb hm (Regs.count_of_zero hc)]
    exact congrArg _ (endMicro_csd hs)
  · have hgoes : ¬ s.regs.EndsCommand := by simp [Regs.EndsCommand, hs]
    obtain ⟨-, -, hnext⟩ := runMicro_sequence_of_not_ends (.xchg 7) s.busAnswer hgoes
    exact ⟨microStep (.xchg 7) s, exec_toInstr (.xchg 7) s, hnext.trans (by rw [hs]; rfl)⟩

/-! ### DLY -/

/-- The delays of R65 as a list. -/
theorem delayCycles_eq_getElem (t : Timing) (n : Fin 8) :
    #v[t.nSettle, t.nHold[0], t.nHold[1], t.nHold[2], t.nHold[3], t.nHold[4], t.nHold[5], t.nHold[6]][n] =
      delayCycles t n := by
  fin_cases n <;> rfl

/-- The odd steps below 17 are the delays (R48, R63). -/
theorem decodeStep_eq_dly {v : BitVec 5} {n : Fin 8} (hv : v.toNat = 2 * n.val + 1) :
    decodeStep v = some (.dly n) := by
  have hstep : v = BitVec.ofNat 5 (2 * n.val + 1) := by rw [← hv, BitVec.ofNat_toNat, BitVec.setWidth_eq]
  exact (decodeStep_eq_some_iff v (.dly n)).2 hstep

/-- No delay ends a command: it goes on to its exchange, whatever CNT is (R68). -/
theorem endMicro_dly {r : Regs} {n : Fin 8} (c : Nat) (hs : r.step.toNat = 2 * n.val + 1) :
    endMicro { r with cnt := c } = { r with step := BitVec.ofNat 5 (2 * n.val + 2), cnt := 0 } := by
  have hlt : r.step.toNat < 17 := by omega
  have hgoes : ¬ Regs.EndsCommand { r with cnt := c } := by
    rintro (h | ⟨h, -⟩)
    · simp [show r.step = 18 from h] at hlt
    · simp [show r.step = 17 from h] at hlt
  have hnext : r.step + 1 = BitVec.ofNat 5 (2 * n.val + 2) := by bv_omega
  rw [endMicro_of_not_ends hgoes, advance, hnext]

/-- Settles O20: at cycle level CNT counts up to the delay (`cycles_midMicro`) and the edge at the delay goes on
(`cycles_wholeMicro`); at the architectural level the delay is a lower bound on the time that `microStep` adds. -/
theorem delaysOnlyPassTime : Obligations.DelaysOnlyPassTime := by
  unfold Obligations.DelaysOnlyPassTime
  refine ⟨fun t is r n ht hn hb hs hc => ?_, fun s n hs => ?_⟩
  · have hm := decodeStep_eq_dly hs
    simp only [delayCycles_eq_getElem]
    refine ⟨fun hlt => ?_, fun heq => ?_⟩
    · have hmid := cycles_midMicro ht hn hb hm hc is.length le_rfl hlt
      rwa [List.take_length] at hmid
    · rw [cycles_wholeMicro ht hn hb hm hc heq]
      exact congrArg _ (endMicro_dly (is.length - 1) hs)
  · rw [delayCycles_eq_getElem]
    refine ⟨microStep (.dly n) s, exec_toInstr (.dly n) s, ?_, rfl, rfl, rfl, Nat.le_add_right _ _⟩
    exact endMicro_dly s.regs.cnt hs

end Sys2Proof.Machine
end

section
/-! PROOF. The statements of 42_frame_decoder.md: the fields of a frame and their sign (R82, R83), its checksum (R84), its
validity (R86), and micro-operation DEC (R80). -/

namespace Sys2Proof.Machine

/-! ### The fields X and Y -/

/-- A pattern reads as negative from 32768 on, where its bit 15 is 1 (R9, R87). -/
theorem signed16_neg_iff (v : Half) : signed16 v < 0 ↔ 32768 ≤ v.toNat := by
  have hv := v.isLt
  unfold signed16
  split <;> omega

/-- Bit 7 of a byte says whether its value is at least 128 (R8). -/
theorem byte_getLsbD_seven_iff (b : Byte) : b.getLsbD 7 = true ↔ 128 ≤ b.toNat := by
  rw [← BitVec.msb_eq_getLsbD_last, BitVec.msb_eq_decide, decide_eq_true_iff]

/-- A field is negative just when bit 7 of its high byte is 1: the low byte adds less than 256 (R82, R83). -/
theorem signed16_field16_neg_iff (f : Frame) (lo hi : Fin 8) :
    signed16 (field16 f lo hi) < 0 ↔ f[hi].getLsbD 7 = true := by
  have hlow := f[lo].isLt
  rw [signed16_neg_iff, field16_toNat, byte_getLsbD_seven_iff]
  omega

/-- Settles O5: X and Y are the field of bytes 1 and 2 and that of bytes 3 and 4, so both halves are facts about any
field. -/
theorem fieldsAreLittleEndianSigned : Obligations.FieldsAreLittleEndianSigned := fun f =>
  ⟨field16_toNat f 1 2, field16_toNat f 3 4, signed16_field16_neg_iff f 1 2, signed16_field16_neg_iff f 3 4⟩

/-! ### The checksum -/

/-- A test that compares two bytes compares their values (R8). -/
theorem byte_beq_iff (a b : Byte) : (a == b) = true ↔ a.toNat = b.toNat :=
  beq_iff_eq.trans BitVec.toNat_inj.symm

/-- Adding bytes is adding their values modulo 256 (R84). -/
theorem payloadSum_toNat (f : Frame) :
    (payloadSum f).toNat = (f[1].toNat + f[2].toNat + f[3].toNat + f[4].toNat) % 256 := by
  change (f[1] + f[2] + f[3] + f[4]).toNat = _
  simp only [BitVec.toNat_add]
  omega

/-- Each of the four payload bytes is at most 255 (R84). -/
theorem payload_toNat_le (f : Frame) : f[1].toNat + f[2].toNat + f[3].toNat + f[4].toNat ≤ 1020 := by
  have h1 := f[1].isLt
  have h2 := f[2].isLt
  have h3 := f[3].isLt
  have h4 := f[4].isLt
  omega

/-- The checksum test on numbers (R84). -/
theorem checksumOk_iff (f : Frame) :
    checksumOk f = true ↔ (f[1].toNat + f[2].toNat + f[3].toNat + f[4].toNat) % 256 = f[7].toNat := by
  rw [← payloadSum_toNat]
  exact byte_beq_iff (payloadSum f) f[7]

/-- Settles O7: the test compares bytes, and bytes are equal when their values are. -/
theorem checksumIsSumModulo256 : Obligations.ChecksumIsSumModulo256 := fun f =>
  ⟨payloadSum_toNat f, payload_toNat_le f, checksumOk_iff f⟩

/-! ### Validity -/

/-- The marker test on numbers (R85). -/
theorem markerOk_iff (f : Frame) : markerOk f = true ↔ f[0].toNat = 255 :=
  byte_beq_iff f[0] 255

/-- The test of the reserved bytes on numbers (R85). -/
theorem reservedOk_iff (f : Frame) : reservedOk f = true ↔ f[5].toNat = 0 ∧ f[6].toNat = 0 :=
  (Bool.and_eq_true_iff ..).trans (and_congr (byte_beq_iff f[5] 0) (byte_beq_iff f[6] 0))

/-- The validity flag is the conjunction of the three tests (R86). -/
theorem validFlag_iff (f : Frame) :
    validFlag f = true ↔ markerOk f = true ∧ reservedOk f = true ∧ checksumOk f = true := by
  simp only [validFlag, Bool.and_eq_true, and_assoc]

/-- Settles O8: the validity flag, test by test. -/
theorem validIffMarkerReservedChecksum : Obligations.ValidIffMarkerReservedChecksum := by
  unfold Obligations.ValidIffMarkerReservedChecksum
  intro f
  rw [fdDecode, validFlag_iff, markerOk_iff, reservedOk_iff, checksumOk_iff, and_assoc]

/-! ### DEC -/

/-- What DEC leaves, at both levels: the results take the sample, and the command completes (R61, R80). -/
theorem endMicro_dec (a : Sample) {r : Regs} (hs : r.step = 18) :
    endMicro (latchSample a r) =
      { r with x := a.x, y := a.y, valid := a.valid, busy := false, done := true, step := 0, cnt := 0 } :=
  endMicro_of_ends (r := latchSample a r) (.inl hs)

/-- Settles O22: both levels end DEC by `endMicro_dec`, on the decoded frame buffer. -/
theorem decWritesTheSample : Obligations.DecWritesTheSample := by
  unfold Obligations.DecWritesTheSample
  refine ⟨fun t i r hr hb hs hc => ?_, fun s hs => ?_⟩
  · have hm : decodeStep r.step = some .dec := by rw [hs]; rfl
    rw [cycle_last hr hb hm (Regs.count_of_zero hc)]
    exact congrArg _ (endMicro_dec (fdDecode r.fb) hs)
  · exact ⟨microStep .dec s, exec_toInstr .dec s, endMicro_dec (fdDecode s.regs.fb) hs, rfl, rfl, rfl⟩

end Sys2Proof.Machine
end

section
/-! PROOF. The statements of 60_exceptions.md: the order of precedence at an edge, and the one disjunction that VALID
shows (R98). -/

namespace Sys2Proof.Machine

/-- Of the inputs an edge of a busy machine looks at `rst_i` and `miso_i` only, also where it completes the command
(R98). -/
theorem cycle_busy_congr {t : Timing} {i j : CycleIn} {r : Regs} (hb : r.busy = true)
    (hrst : i.host.rst = j.host.rst) (hmiso : i.miso = j.miso) : cycle t i r = cycle t j r := by
  cases hj : j.host.rst with
  | true => rw [cycle_reset (hrst.trans hj), cycle_reset hj]
  | false =>
    have hi := hrst.trans hj
    cases hm : decodeStep r.step with
    | none => rw [cycle_reserved hi hm, cycle_reserved hj hm]
    | some m => rw [cycle_busy hi hb hm, cycle_busy hj hb hm, hmiso]

/-- An edge of an idle machine that accepts the command offered (R55). -/
theorem cycle_of_start {t : Timing} {i : CycleIn} {r : Regs} (hr : i.host.rst = false) (hi : r.Idle)
    (hs : i.host.start = true) (hop : i.host.op ≠ 0) : cycle t i r = .next (accept i.host.op r) := by
  rw [cycle_idle hr hi.1 hi.2, if_pos ⟨hs, hop⟩]

/-- A frame is invalid just when some test fails, whichever and however many (R86, R98). -/
theorem validFlag_eq_false_iff (f : Frame) :
    validFlag f = false ↔ markerOk f = false ∨ reservedOk f = false ∨ checksumOk f = false := by
  simp only [validFlag, Bool.and_eq_false_iff, or_assoc]

/-- Settles O55: reset, the micro-operation of a busy machine, acceptance by an idle one, and validity each have their
lemma. -/
theorem edgePrecedence : Obligations.EdgePrecedence :=
  ⟨fun _ _ _ hr => cycle_reset hr, fun _ _ _ _ _ hb hrst => cycle_busy_congr hb hrst rfl,
    fun _ _ _ hr hi hs hop => cycle_of_start hr hi hs hop, validFlag_eq_false_iff⟩

end Sys2Proof.Machine
end

section
/-! PROOF. The statement of 70_reset_and_hazards.md: a reset gives every register its value of the table (R107). -/

namespace Sys2Proof.Machine

/-- The reset registers, written out as the table of R107 lists them. -/
theorem Regs.reset_eq_table :
    Regs.reset = { fb := #v[0, 0, 0, 0, 0, 0, 0, 0], x := 0, y := 0, valid := false, busy := false, done := false,
                   opr := 0, step := 0, cnt := 0, sr := 0, cs := false, sclk := false } := rfl

/-- Where the registers hold their reset values the lines are at rest: chip-select high, SCLK and MOSI low (R107). -/
theorem outputs_lines_of_regs_reset {s : State} (h : s.regs = Regs.reset) :
    s.outputs.csNO = true ∧ s.outputs.sclkO = false ∧ s.outputs.mosiO = false := by
  refine ⟨?_, congrArg Regs.sclk h, rfl⟩
  rw [s.outputs_csNO, h]
  rfl

/-- Settles O28: a reset step is `applyReset` and a reset edge answers `Regs.reset`, from whatever state; the lines follow
the registers. -/
theorem resetOverridesEverything : Obligations.ResetOverridesEverything := by
  unfold Obligations.ResetOverridesEverything
  rw [← Regs.reset_eq_table]
  refine ⟨fun s hr => ?_, fun _ _ _ hr => cycle_reset hr⟩
  have hregs := applyReset_regs s.popPorts
  exact ⟨applyReset s.popPorts, step_reset hr, hregs, outputs_lines_of_regs_reset hregs⟩

end Sys2Proof.Machine
end

section
/-! PROOF. The statements of 30_encoding.md: the decoder and the encoder undo each other on each of the three formats
(R44, R47, R48, R63), and only the reserved values of `STEP` have no meaning (R49). -/

namespace Sys2Proof

/-! ### The three formats, each way -/

/-- The code of a command encodes what it decodes to (R47). -/
theorem encode_decodeCmd (op : BitVec 2) : encode (decodeCmd op) = .cmd op := by
  revert op; decide

/-- Every micro-operation has its step number (R63). -/
theorem exists_decodeStep (m : Micro) : ∃ v, decodeStep v = some m :=
  ⟨_, (decodeStep_eq_some_iff _ m).2 rfl⟩

/-- A step number encodes the micro-operation that it selects (R48, R63). -/
theorem encode_toInstr {v : BitVec 5} {m : Micro} (h : decodeStep v = some m) : encode m.toInstr = .ustep v := by
  rw [(decodeStep_eq_some_iff v m).1 h]
  cases m with
  | csa => rfl
  | dly n => fin_cases n <;> rfl
  | xchg k => fin_cases k <;> rfl
  | csd => rfl
  | dec => rfl

/-- A step number decodes to the row of its micro-operation (R48). -/
theorem decode_ustep {v : BitVec 5} {m : Micro} (h : decodeStep v = some m) : decode (.ustep v) = .ok m.toInstr := by
  simp only [decode, h]

theorem decode_ustep_reserved {v : BitVec 5} (h : decodeStep v = none) :
    decode (.ustep v) = .error (.stepReserved v) := by
  simp only [decode, h]

/-- A well-formed step number selects a micro-operation, and no other does (R49). -/
theorem wellFormed_ustep_iff (v : BitVec 5) : (Encoded.ustep v).wellFormed = true ↔ ∃ m, decodeStep v = some m :=
  decide_eq_true_iff.trans ⟨decodeStep_isSome, fun ⟨_, hm⟩ => decodeStep_le hm⟩

/-! ### Every item, every instruction -/

/-- An item has a meaning just when it is well-formed. -/
theorem wellFormed_iff_decodes (e : Encoded) : e.wellFormed = true ↔ ∃ i, decode e = .ok i := by
  cases e with
  | cmd op => exact iff_of_true rfl ⟨_, rfl⟩
  | frame w => exact iff_of_true rfl ⟨_, rfl⟩
  | ustep v =>
    rw [wellFormed_ustep_iff]
    cases hv : decodeStep v with
    | some m => exact iff_of_true ⟨m, rfl⟩ ⟨_, decode_ustep hv⟩
    | none => simp [decode_ustep_reserved hv]

/-- What an item decodes to is encoded as that item. -/
theorem encode_of_decode {e : Encoded} {i : Instr} (h : decode e = .ok i) : encode i = e := by
  cases e with
  | cmd op =>
    cases h
    exact encode_decodeCmd op
  | frame w =>
    cases h
    exact congrArg Encoded.frame (packFrame_unpackFrame w)
  | ustep v =>
    cases hv : decodeStep v with
    | none => rw [decode_ustep_reserved hv] at h; cases h
    | some m =>
      rw [decode_ustep hv] at h
      cases h
      exact encode_toInstr hv

/-- The encoding of an instruction decodes to it. -/
theorem decode_encode (i : Instr) : decode (encode i) = .ok i := by
  obtain ⟨m, rfl⟩ | ⟨op, rfl⟩ | ⟨f, rfl⟩ := Machine.instr_cases i
  · obtain ⟨v, hv⟩ := exists_decodeStep m
    rw [encode_toInstr hv, decode_ustep hv]
  · rw [encode_decodeCmd]
    rfl
  · exact congrArg (fun g => Except.ok (Instr.frame g)) (unpackFrame_packFrame f)

/-- Settles O1: by `decode_encode`; an item that decodes is well-formed. -/
theorem decodeOfEncodeIsIdentity : Obligations.DecodeOfEncodeIsIdentity := fun i =>
  ⟨decode_encode i, (wellFormed_iff_decodes _).2 ⟨i, decode_encode i⟩⟩

/-- Settles O2: format by format. -/
theorem eachEncodingHasOneMeaning : Obligations.EachEncodingHasOneMeaning := fun e =>
  ⟨wellFormed_iff_decodes e, fun _ => encode_of_decode⟩

/-- Settles O3: each word runs through the decoder. -/
theorem specWordsDecode : Obligations.SpecWordsDecode :=
  ⟨rfl, rfl, rfl, rfl, rfl, rfl, rfl, rfl, rfl, rfl, rfl, rfl⟩

end Sys2Proof
end

section
/-! PROOF. The statements of 42_frame_decoder.md on whole frames: the fields as memory reads (R33) and their sign (R87),
the FRAME row (R46), the reference frames (R89) and how many there are (R46), errors that the tests catch or let pass
(R90), and FD as a block of its own (R91). -/

namespace Sys2Proof.Machine

/-! ### Fields -/

/-- Settles O6: the read of two bytes is the number of `field16_toNat`. -/
theorem fieldsAreMemReads : Obligations.FieldsAreMemReads := by
  unfold Obligations.FieldsAreMemReads
  have hread : ∀ (f : Frame) (k : Nat) (h : k + 2 ≤ 8), memRead f k 2 h = f[k].toNat + 256 * f[k + 1].toNat :=
    fun _ _ _ => rfl
  exact ⟨hread, fun f => ⟨field16_toNat f 1 2, field16_toNat f 3 4⟩⟩

/-- The signed reading of a pattern is the library's (R9, R87). -/
theorem signed16_eq_toInt (v : Half) : signed16 v = v.toInt := by
  rw [BitVec.toInt_eq_toNat_cond, signed16]
  split <;> split <;> omega

/-- Settles O9: the bounds are those of a 16-bit integer. -/
theorem signedReadingIsTwosComplement : Obligations.SignedReadingIsTwosComplement := by
  unfold Obligations.SignedReadingIsTwosComplement
  intro v
  have hv := v.isLt
  refine ⟨signed16_eq_toInt v, ?_, ?_, fun h => if_pos (by omega)⟩ <;> unfold signed16 <;> split <;> omega

/-! ### Validity byte by byte -/

/-- The three tests as equations between bytes (R84, R85, R86). -/
theorem validFlag_iff_bytes (f : Frame) :
    validFlag f = true ↔ f[0] = 255 ∧ f[5] = 0 ∧ f[6] = 0 ∧ f[1] + f[2] + f[3] + f[4] = f[7] := by
  rw [validFlag_eq]
  simp only [Bool.and_eq_true, beq_iff_eq, and_assoc]

/-- Four bytes add up to a fifth when their values do modulo 256 (R84). -/
theorem byte_sum_eq_iff (a b c d e : Byte) :
    a + b + c + d = e ↔ (a.toNat + b.toNat + c.toNat + d.toNat) % 256 = e.toNat := by
  rw [← BitVec.toNat_inj]
  simp only [BitVec.toNat_add]
  omega

/-- Validity on numbers, as R86 gives it. -/
theorem validFlag_iff_toNat (f : Frame) :
    validFlag f = true ↔ f[0].toNat = 255 ∧ f[5].toNat = 0 ∧ f[6].toNat = 0 ∧
      (f[1].toNat + f[2].toNat + f[3].toNat + f[4].toNat) % 256 = f[7].toNat :=
  validIffMarkerReservedChecksum f

/-- Settles O24: the row latches `fdDecode` of the frame, and nothing else. -/
theorem frameIsClassified : Obligations.FrameIsClassified := fun _ f =>
  ⟨_, rfl, rfl, validFlag_iff_toNat f⟩

/-- Two frames whose fields agree have the same payload. -/
theorem payload_eq_of_fields_eq {f g : Frame} (hx : xField g = xField f) (hy : yField g = yField f) :
    g[1] = f[1] ∧ g[2] = f[2] ∧ g[3] = f[3] ∧ g[4] = f[4] := by
  have hlow {lo hi : Fin 8} (h : field16 g lo hi = field16 f lo hi) : g[lo] = f[lo] := by
    rw [← field16_low g lo hi, h, field16_low]
  have hhigh {lo hi : Fin 8} (h : field16 g lo hi = field16 f lo hi) : g[hi] = f[hi] := by
    rw [← field16_high g lo hi, h, field16_high]
  exact ⟨hlow hx, hhigh hx, hlow hy, hhigh hy⟩

/-! ### Reference frames -/

/-- A pattern is the field of its two bytes. -/
theorem field_of_bytes (v : Half) :
    (v.extractLsb' 0 8).setWidth 16 + 256 * (v.extractLsb' 8 8).setWidth 16 = v := by
  apply BitVec.eq_of_toNat_eq
  have hv := v.isLt
  simp [Nat.shiftRight_eq_div_pow]
  omega

/-- The reference frame of a pair decodes to it (R89). -/
theorem fdDecode_refFrame (x y : Half) : fdDecode (refFrame x y) = { x := x, y := y, valid := true } := by
  have hx : xField (refFrame x y) = x := field_of_bytes x
  have hy : yField (refFrame x y) = y := field_of_bytes y
  have hv : validFlag (refFrame x y) = true := (validFlag_iff_bytes _).2 ⟨rfl, rfl, rfl, rfl⟩
  rw [fdDecode, hx, hy, hv]

/-- A valid frame is the reference frame of the pair it decodes to (R89). -/
theorem refFrame_fdDecode {f : Frame} (h : (fdDecode f).valid = true) :
    refFrame (fdDecode f).x (fdDecode f).y = f := by
  obtain ⟨h0, h5, h6, h7⟩ := (validFlag_iff_bytes f).1 h
  have h1 : (xField f).extractLsb' 0 8 = f[1] := field16_low f 1 2
  have h2 : (xField f).extractLsb' 8 8 = f[2] := field16_high f 1 2
  have h3 : (yField f).extractLsb' 0 8 = f[3] := field16_low f 3 4
  have h4 : (yField f).extractLsb' 8 8 = f[4] := field16_high f 3 4
  refine frame_ext h0.symm h1 h2 h3 h4 h5.symm h6.symm ?_
  rw [← h7, ← h1, ← h2, ← h3, ← h4]
  rfl

/-- Settles O10: `refFrame` and `fdDecode` undo each other, so the pair is the only one. -/
theorem validFramesAreReferenceFrames : Obligations.ValidFramesAreReferenceFrames := by
  unfold Obligations.ValidFramesAreReferenceFrames
  refine ⟨fdDecode_refFrame, fun f hf => ⟨refFrame_fdDecode hf, fun x y h => ?_⟩⟩
  rw [← h, fdDecode_refFrame]
  exact ⟨rfl, rfl⟩

/-- The reference frame of a pair, as a valid frame. -/
def validRefFrame (p : Half × Half) : { f : Frame // (fdDecode f).valid = true } :=
  ⟨refFrame p.1 p.2, by rw [fdDecode_refFrame]⟩

/-- Pairs and valid frames correspond (R89). -/
theorem validRefFrame_bijective : Function.Bijective validRefFrame := by
  refine ⟨fun p q h => ?_, fun f => ⟨((fdDecode f.1).x, (fdDecode f.1).y), Subtype.ext (refFrame_fdDecode f.2)⟩⟩
  have hdecode := congrArg fdDecode (congrArg Subtype.val h)
  simp only [validRefFrame, fdDecode_refFrame, Sample.mk.injEq, and_true] at hdecode
  exact Prod.ext hdecode.1 hdecode.2

/-- Settles O11: there are as many valid frames as pairs of 16-bit patterns. -/
theorem exactlyTwoPow32ValidFrames : Obligations.ExactlyTwoPow32ValidFrames := by
  unfold Obligations.ExactlyTwoPow32ValidFrames
  have hhalf : Nat.card Half = 2 ^ 16 := (Nat.card_congr BitVec.equivFin.toEquiv).trans (Nat.card_fin _)
  rw [← Nat.card_eq_of_bijective validRefFrame validRefFrame_bijective, Nat.card_prod, hhalf, ← Nat.pow_add]

/-! ### Errors -/

/-- A byte of a valid frame is fixed by the other seven (R90). -/
theorem byte_eq_of_valid {f g : Frame} (hf : validFlag f = true) (hg : validFlag g = true) (k : Fin 8)
    (h : ∀ i : Fin 8, i ≠ k → g[i] = f[i]) : g[k] = f[k] := by
  obtain ⟨hf0, hf5, hf6, hf7⟩ := (validFlag_iff_bytes f).1 hf
  obtain ⟨hg0, hg5, hg6, hg7⟩ := (validFlag_iff_bytes g).1 hg
  have h1 (hk : 1 ≠ k) : g[1] = f[1] := h 1 hk
  have h2 (hk : 2 ≠ k) : g[2] = f[2] := h 2 hk
  have h3 (hk : 3 ≠ k) : g[3] = f[3] := h 3 hk
  have h4 (hk : 4 ≠ k) : g[4] = f[4] := h 4 hk
  have h7 (hk : 7 ≠ k) : g[7] = f[7] := h 7 hk
  have hsum (hk : 7 ≠ k) : g[1] + g[2] + g[3] + g[4] = f[1] + f[2] + f[3] + f[4] := by rw [hg7, hf7, h7 hk]
  fin_cases k
  · exact hg0.trans hf0.symm
  · simpa [h2, h3, h4] using hsum
  · simpa [h1, h3, h4] using hsum
  · simpa [h1, h2, h4] using hsum
  · simpa [h1, h2, h3] using hsum
  · exact hg5.trans hf5.symm
  · exact hg6.trans hf6.symm
  · simpa [h1, h2, h3, h4, hf7] using hg7.symm

/-- Settles O12: were both frames valid, the changed byte would be the old one (`byte_eq_of_valid`). -/
theorem singleByteErrorIsCaught : Obligations.SingleByteErrorIsCaught := by
  unfold Obligations.SingleByteErrorIsCaught
  intro f k b hf hb
  rw [Bool.eq_false_iff]
  intro hg
  have := byte_eq_of_valid hf hg k fun i hi => by
    simp [Fin.val_ne_of_ne hi.symm]
  exact hb (by simpa using this)

/-- Settles O13: differences that add up to 0 leave the payload's sum; the sample fixes the payload. -/
theorem compensatingErrorsPass : Obligations.CompensatingErrorsPass := by
  unfold Obligations.CompensatingErrorsPass
  intro f g hf h0 h5 h6 h7 hsum
  obtain ⟨hf0, hf5, hf6, hf7⟩ := (validFlag_iff_bytes f).1 hf
  refine ⟨(validFlag_iff_bytes g).2 ⟨h0.trans hf0, h5.trans hf5, h6.trans hf6, ?_⟩, fun hne => ?_⟩
  · have hdiff : g[1] + g[2] + g[3] + g[4] - (f[1] + f[2] + f[3] + f[4]) = 0 := by rw [← hsum]; ring
    rw [sub_eq_zero.1 hdiff, hf7, h7]
  · by_contra hsame
    rw [not_or, not_not, not_not] at hsame
    obtain ⟨h1, h2, h3, h4⟩ := payload_eq_of_fields_eq hsame.1 hsame.2
    exact hne (frame_ext h0 h1 h2 h3 h4 h5 h6 h7)

/-! ### FD alone -/

/-- Two bytes of a packed frame side by side, as a number. -/
theorem extract_two_bytes_toNat (w : BitVec 64) (k : Nat) :
    (w.extractLsb' (8 * k) 16).toNat = (frameByte w k).toNat + 256 * (frameByte w (k + 1)).toNat := by
  simp only [frameByte, BitVec.extractLsb'_toNat, Nat.shiftRight_eq_div_pow]
  rw [Nat.mul_succ, Nat.pow_add, ← Nat.div_div_eq_div_mul]
  omega

/-- Two bytes of a packed frame are a field of the frame. -/
theorem field16_unpackFrame (w : BitVec 64) (k : Nat) (hk : k + 1 < 8) :
    field16 (unpackFrame w) ⟨k, by omega⟩ ⟨k + 1, hk⟩ = w.extractLsb' (8 * k) 16 := by
  apply BitVec.eq_of_toNat_eq
  rw [field16_toNat, extract_two_bytes_toNat, ← unpackFrame_getElem w k (by omega), ← unpackFrame_getElem w (k + 1) hk]
  rfl

/-- The reserved bytes of a packed frame, tested together. -/
theorem extract_two_bytes_eq_zero_iff (w : BitVec 64) (k : Nat) :
    w.extractLsb' (8 * k) 16 = 0 ↔ frameByte w k = 0 ∧ frameByte w (k + 1) = 0 := by
  rw [← BitVec.toNat_inj, ← BitVec.toNat_inj, ← BitVec.toNat_inj, extract_two_bytes_toNat]
  simp

/-- The test of FD alone, on slices. -/
theorem fdAlone_valid_iff (w : BitVec 64) :
    (fdAlone w).valid = true ↔ w.extractLsb' 0 8 = 0xFF ∧ w.extractLsb' 40 16 = 0 ∧
      w.extractLsb' 8 8 + w.extractLsb' 16 8 + w.extractLsb' 24 8 + w.extractLsb' 32 8 = w.extractLsb' 56 8 := by
  simp only [fdAlone, Bool.and_eq_true, beq_iff_eq, and_assoc]

/-- FD alone is `decode` of the unpacked frame (R91). -/
theorem fdAlone_eq_fdDecode (w : BitVec 64) : fdAlone w = fdDecode (unpackFrame w) := by
  have hx : (fdAlone w).x = xField (unpackFrame w) := (field16_unpackFrame w 1 (by decide)).symm
  have hy : (fdAlone w).y = yField (unpackFrame w) := (field16_unpackFrame w 3 (by decide)).symm
  have hv : (fdAlone w).valid = validFlag (unpackFrame w) := by
    rw [Bool.eq_iff_iff, fdAlone_valid_iff, validFlag_iff_bytes, extract_two_bytes_eq_zero_iff w 5, and_assoc]
    rfl
  rw [fdDecode, ← hx, ← hy, ← hv]

/-- Settles O4: the tests of FD alone on slices, and `fdAlone_eq_fdDecode` for the agreement. -/
theorem decoderAloneAgreesOnPackedInput : Obligations.DecoderAloneAgreesOnPackedInput := by
  unfold Obligations.DecoderAloneAgreesOnPackedInput
  refine ⟨fun w => ⟨rfl, rfl, ?_, fdAlone_eq_fdDecode w⟩, fun f => ?_⟩
  · rw [fdAlone_valid_iff, byte_sum_eq_iff]
  · rw [fdAlone_eq_fdDecode, unpackFrame_packFrame]

end Sys2Proof.Machine
end

section
/-! PROOF. The statements on one step: what it runs (R48, R55, R63), where it is refused (R49), the idle step (R103),
the reset (R108), the exchange (R66), and the "written by" column of the register table over one step and over a run (R10 to
R13, R26 item 6). -/

namespace Sys2Proof.Machine

/-! ### What exec answers -/

/-- Settles O36: a micro-operation, a command and a frame each have their next state. -/
theorem everyInstructionCompletes : Obligations.EveryInstructionCompletes := by
  unfold Obligations.EveryInstructionCompletes
  intro i s
  obtain ⟨m, rfl⟩ | ⟨op, rfl⟩ | ⟨f, rfl⟩ := instr_cases i
  exacts [⟨_, exec_toInstr m s⟩, ⟨_, exec_decodeCmd op s⟩, ⟨_, rfl⟩]

/-- Settles O15: an idle machine accepts each of the three (`offer_idle`). -/
theorem transportAndDecodeCommandsStart : Obligations.TransportAndDecodeCommandsStart := fun s hb =>
  ⟨congrArg Host.Outcome.next (offer_idle 0b01 s hb), congrArg Host.Outcome.next (offer_idle 0b10 s hb),
    congrArg Host.Outcome.next (offer_idle 0b11 s hb)⟩

/-- A command offered writes only the sequencer's registers, and makes time pass. -/
theorem offer_frame (op : BitVec 2) (s : State) :
    (offer op s).regs.fb = s.regs.fb ∧ (offer op s).regs.sample = s.regs.sample ∧
    (offer op s).regs.cs = s.regs.cs ∧ (offer op s).regs.sr = s.regs.sr ∧ (offer op s).regs.sclk = s.regs.sclk ∧
    (offer op s).sensor = s.sensor ∧ (offer op s).wire = s.wire ∧ (offer op s).ports = s.ports := by
  unfold offer
  split
  · simp
  · split <;> simp [Regs.sample]

/-- A NOP offered changes no register (R56). -/
theorem offer_zero_regs (s : State) : (offer 0 s).regs = s.regs := by
  unfold offer
  split <;> rfl

/-! ### What a step runs -/

/-- A busy machine runs the instruction decoded from `STEP` (R48, R63). -/
theorem step_busy_exec {s : State} {i : Instr} (hr : s.nextPorts.rst = false) (hb : s.regs.busy = true)
    (hi : decode (.ustep s.regs.step) = .ok i) : step s = exec i s.popPorts := by
  cases hm : decodeStep s.regs.step with
  | none => rw [decode_ustep_reserved hm] at hi; cases hi
  | some m =>
    rw [decode_ustep hm] at hi
    cases hi
    rw [step_busy hr hb hm, exec_toInstr]

/-- An idle machine runs the command offered (R55). -/
theorem step_idle_exec {s : State} {i : Instr} (hr : s.nextPorts.rst = false) (hidle : s.regs.Idle)
    (hs : s.nextPorts.start = true) (hi : decode (.cmd s.nextPorts.op) = .ok i) : step s = exec i s.popPorts := by
  cases hi
  rw [step_idle hr hidle.1 hidle.2, if_pos hs, exec_decodeCmd]

/-- At DEC a step runs the FRAME in the frame buffer, and completes (R80). -/
theorem step_dec_frame {s : State} (hr : s.nextPorts.rst = false) (hb : s.regs.busy = true) (hs : s.regs.step = 18) :
    ∃ t u, exec (.frame s.regs.fb) s.popPorts = .next t ∧ step s = .next u ∧ u.regs = complete t.regs :=
  ⟨_, _, rfl, step_busy (m := .dec) hr hb (by rw [hs]; rfl), endMicro_dec (fdDecode s.regs.fb) hs⟩

/-- Settles O25: one lemma for each of the three. -/
theorem stepRunsTheDecodedInstruction : Obligations.StepRunsTheDecodedInstruction :=
  ⟨fun _ _ hr hb hi => step_busy_exec hr hb hi, fun _ _ hr hidle hs hi => step_idle_exec hr hidle hs hi,
    fun _ hr hb hs => step_dec_frame hr hb hs⟩

/-- Settles O31: `withItem` meets the premises of the lemma of each format. -/
theorem placedItemRunsNext : Obligations.PlacedItemRunsNext := by
  unfold Obligations.PlacedItemRunsNext
  refine fun s => ⟨fun op i hi => ?_, fun v i hi => ?_, fun w f hf => ?_⟩
  · exact step_idle_exec (s := s.withItem (.cmd op)) rfl ⟨rfl, by simp [State.withItem]⟩ rfl hi
  · exact step_busy_exec (s := s.withItem (.ustep v)) rfl rfl hi
  · cases hf
    exact step_dec_frame (s := s.withItem (.frame w)) rfl rfl rfl

/-- Settles O26: 19 to 31 select nothing. -/
theorem reservedStepIsRefused : Obligations.ReservedStepIsRefused :=
  ⟨fun _ hr h => step_reserved hr ((decodeStep_eq_none_iff _).2 h),
    fun _ _ _ hr h => cycle_reserved hr ((decodeStep_eq_none_iff _).2 h)⟩

/-- Settles O27: nothing offered is an idle step, and NOP is an offer that nothing accepts. -/
theorem idleKeepsAllState : Obligations.IdleKeepsAllState := by
  unfold Obligations.IdleKeepsAllState
  intro s hr hidle hnone
  have hstep := step_idle hr hidle.1 hidle.2
  cases hs : s.nextPorts.start with
  | false =>
    rw [hs, if_neg Bool.false_ne_true] at hstep
    exact ⟨_, hstep, rfl, rfl, rfl⟩
  | true =>
    have hop : s.nextPorts.op = 0 := hnone.resolve_left (by simp [hs])
    rw [if_pos hs, hop] at hstep
    obtain ⟨-, -, -, -, -, hsensor, hwire, -⟩ := offer_frame 0 s.popPorts
    exact ⟨_, hstep, offer_zero_regs s.popPorts, hsensor, hwire⟩

/-! ### Reset -/

/-- What a reset leaves on the lines: chip-select rises if it was asserted (R108). -/
theorem applyReset_wire (s : State) :
    (applyReset s).wire = if s.regs.cs then .select false (applyReset s).time :: s.wire else s.wire := by
  unfold applyReset
  cases s.regs.cs <;> rfl

/-- Settles O29: registers, lines and sensor after a reset each have their lemma. -/
theorem resetCutsAReadCycleShort : Obligations.ResetCutsAReadCycleShort := by
  unfold Obligations.ResetCutsAReadCycleShort
  intro s hr
  have hregs := applyReset_regs s.popPorts
  have hwire := applyReset_wire s.popPorts
  have hsensor := applyReset_sensor s.popPorts
  refine ⟨_, step_reset hr, by rw [hregs]; rfl, by rw [hregs]; rfl, by rw [hregs]; rfl, fun hcs => ?_, fun hcs => ?_,
    fun hcs q hq => ?_, fun h => ?_⟩
  · rw [hwire, State.popPorts_regs, if_pos hcs]
    rfl
  · rw [hwire, State.popPorts_regs, if_neg (by simp [hcs])]
    rfl
  · rw [hsensor, State.popPorts_regs, State.popPorts_sensor, hcs, hq]
    rfl
  · rw [hsensor, State.popPorts_regs, State.popPorts_sensor]
    obtain hcs | ⟨level, hl⟩ := h
    · rw [hcs]
      cases s.sensor <;> rfl
    · rw [hl]
      rfl

/-- Settles O30: the reset registers are written out; eight bytes of 0 fail the marker test. -/
theorem resetStateIsTheTable : Obligations.ResetStateIsTheTable := ⟨Regs.reset_eq_table, by decide⟩

/-! ### The exchange -/

/-- What an exchange leaves: it goes on to the next step, the byte stored (R66, R68). -/
theorem endMicro_xchg {r : Regs} {k : Fin 8} (rx : Byte) (hs : r.step.toNat = 2 * k.val + 2) :
    endMicro (storeByte k rx r) =
      { r with fb := r.fb.set k rx, sr := rx, sclk := false, step := BitVec.ofNat 5 (2 * k.val + 3), cnt := 0 } := by
  have hgoes : ¬ (storeByte k rx r).EndsCommand := by
    rintro (h | ⟨h, -⟩)
    · simp only [show r.step = 18 from h, BitVec.reduceToNat] at hs
      omega
    · simp only [show r.step = 17 from h, BitVec.reduceToNat] at hs
      omega
  have hnext : r.step + 1 = BitVec.ofNat 5 (2 * k.val + 3) := by bv_omega
  rw [endMicro_of_not_ends hgoes, advance, storeByte_step, hnext]
  rfl

/-- Settles O21: an exchange ends by `endMicro_xchg`; its line event is the one `microStep` logs, and a stream gives its
first byte. -/
theorem exchangeStoresTheAnsweredByte : Obligations.ExchangeStoresTheAnsweredByte := by
  unfold Obligations.ExchangeStoresTheAnsweredByte
  intro s k hs
  refine ⟨microStep (.xchg k) s, exec_toInstr (.xchg k) s, endMicro_xchg s.busAnswer hs, rfl, ?_, rfl, fun b q hq => ?_⟩
  · exact Nat.le_add_right_of_le (Nat.le_add_right _ _)
  · simp only [State.busAnswer, microStep, hq]
    exact ⟨rfl, rfl⟩

/-! ### Who writes each register -/

/-- A micro-operation writes a byte of the frame buffer only if it is that byte's exchange (R11, R66). -/
theorem microStep_fb_getElem (m : Micro) (s : State) (k : Fin 8) :
    (microStep m s).regs.fb[k] = if m = .xchg k then s.busAnswer else s.regs.fb[k] := by
  cases m with
  | xchg j => by_cases h : j = k <;> simp [microStep, runMicro, h, Fin.val_inj]
  | _ => simp [microStep, runMicro]

/-- A micro-operation writes the results only if it is DEC (R12, R80). -/
theorem microStep_sample (m : Micro) (s : State) :
    (microStep m s).regs.sample = if m = .dec then fdDecode s.regs.fb else s.regs.sample := by
  cases m <;> simp [microStep, runMicro, Regs.sample, fdDecode]

/-- A micro-operation that is no exchange leaves the receiver and the sensor alone. -/
theorem microStep_receiver {m : Micro} (hm : ∀ k, m ≠ .xchg k) (s : State) :
    (microStep m s).regs.sr = s.regs.sr ∧ (microStep m s).regs.sclk = s.regs.sclk ∧
      (microStep m s).sensor = s.sensor := by
  cases m with
  | xchg k => exact absurd rfl (hm k)
  | _ => simp [microStep, runMicro]

/-- A micro-operation's row is no command's and no frame's. -/
theorem toInstr_ne (m : Micro) : m.toInstr ≠ .nop ∧ ∀ f, m.toInstr ≠ .frame f := by
  obtain ⟨v, hv⟩ := exists_decodeStep m
  have henc := encode_toInstr hv
  refine ⟨fun h => ?_, fun f h => ?_⟩ <;> rw [h] at henc <;> cases henc

/-- The commands other than NOP (R47). -/
theorem decodeCmd_of_ne_zero {op : BitVec 2} (h : op ≠ 0) :
    decodeCmd op = .readRaw ∨ decodeCmd op = .decode ∨ decodeCmd op = .sample := by
  revert op; decide

/-- Settles O32: micro-operations and offers by their frame lemmas; a FRAME latches a sample. -/
theorem registersChangeOnlyByTheirWriters : Obligations.RegistersChangeOnlyByTheirWriters := by
  unfold Obligations.RegistersChangeOnlyByTheirWriters
  intro i s t h
  obtain ⟨m, rfl⟩ | ⟨op, rfl⟩ | ⟨f, rfl⟩ := instr_cases i
  · rw [exec_toInstr] at h
    cases h
    refine ⟨fun k hk => ?_, fun hs => ?_, fun hcs => ?_, fun hopr => ?_, fun hrecv => ?_, fun _ => ?_, fun hw => ?_,
      rfl⟩
    · rw [microStep_fb_getElem, ne_eq, ite_eq_right_iff, Classical.not_imp] at hk
      rw [hk.1]
    · rw [microStep_sample, ne_eq, ite_eq_right_iff, Classical.not_imp] at hs
      exact .inl (congrArg Micro.toInstr hs.1)
    · cases m with
      | csa => exact .inl rfl
      | csd => exact .inr rfl
      | _ => exact absurd (runMicro_cs ..) hcs
    · exact absurd (runMicro_opr ..) hopr
    · by_contra hx
      obtain ⟨hsr, hsclk, hsensor⟩ := microStep_receiver (m := m) (fun k hk => hx ⟨k, congrArg Micro.toInstr hk⟩) s
      simp [hsr, hsclk, hsensor] at hrecv
    · exact toInstr_ne m
    · cases m with
      | csa => exact .inl rfl
      | csd => exact .inr (.inl rfl)
      | xchg k => exact .inr (.inr ⟨k, rfl⟩)
      | _ => exact absurd rfl hw
  · rw [exec_decodeCmd] at h
    cases h
    obtain ⟨hfb, hsample, hcs, hsr, hsclk, hsensor, hwire, hports⟩ := offer_frame op s
    refine ⟨fun k hk => absurd (by rw [hfb]) hk, fun hs => absurd hsample hs, fun h => absurd hcs h, fun hopr => ?_,
      fun hrecv => ?_, fun hseq => ?_, fun hw => absurd hwire hw, hports⟩
    · exact decodeCmd_of_ne_zero fun h0 => hopr (by rw [h0, offer_zero_regs])
    · simp [hsr, hsclk, hsensor] at hrecv
    · have hop := decodeCmd_of_ne_zero (op := op) fun h0 => by
        rw [h0, offer_zero_regs] at hseq
        simp at hseq
      obtain h | h | h := hop <;> simp [h]
  · cases h
    exact ⟨fun k hk => absurd rfl hk, fun _ => .inr ⟨f, rfl⟩, fun h => absurd rfl h, fun h => absurd rfl h,
      fun h => by simp at h, fun h => by simp at h, fun h => absurd rfl h, rfl⟩

/-- What a step with no reset that runs no micro-operation keeps. -/
theorem step_not_running {s t : State} (h : step s = .next t) (hr : s.nextPorts.rst = false) (hrun : s.running = none) :
    t.regs.fb = s.regs.fb ∧ t.regs.sample = s.regs.sample := by
  obtain ⟨hr', -⟩ | ⟨-, hb, m, hm, -⟩ | ⟨-, hb, hs, rfl⟩ := step_cases h
  · simp [hr] at hr'
  · rw [running_eq_some_iff.2 ⟨hr, hb, hm⟩] at hrun
    cases hrun
  · split
    · obtain ⟨hfb, hsample, -⟩ := offer_frame s.nextPorts.op s.popPorts
      exact ⟨hfb, hsample⟩
    · exact ⟨rfl, rfl⟩

/-- A step that runs a micro-operation. -/
theorem step_running {s t : State} {m : Micro} (h : step s = .next t) (hrun : s.running = some m) :
    t = microStep m s.popPorts := by
  obtain ⟨hr, hb, hm⟩ := running_eq_some_iff.1 hrun
  rw [step_busy hr hb hm] at h
  cases h
  rfl

/-- Settles O34: the micro-operation that runs writes by `microStep_fb_getElem`; without one nothing does. -/
theorem frameBufferIsWrittenOnlyByExchange : Obligations.FrameBufferIsWrittenOnlyByExchange := by
  unfold Obligations.FrameBufferIsWrittenOnlyByExchange
  intro s t k h hr
  cases hrun : s.running with
  | none =>
    obtain ⟨hfb, -⟩ := step_not_running h hr hrun
    simp [hfb]
  | some m =>
    rw [step_running h hrun, microStep_fb_getElem]
    simp

/-- Settles O33: a step is a reset, a micro-operation (`microStep_sample`) or none (`step_not_running`). -/
theorem sampleIsWrittenOnlyByDec : Obligations.SampleIsWrittenOnlyByDec := by
  unfold Obligations.SampleIsWrittenOnlyByDec
  refine fun s t h => ⟨fun hw => ?_, fun hr => ?_, fun hrun => ?_⟩
  · obtain ⟨hr, hdec⟩ : s.nextPorts.rst = false ∧ s.running ≠ some .dec := by simpa [State.writesSample] using hw
    cases hrun : s.running with
    | none =>
      obtain ⟨-, hsample⟩ := step_not_running h hr hrun
      exact hsample
    | some m =>
      rw [step_running h hrun, microStep_sample, if_neg (by simpa [hrun] using hdec)]
      rfl
  · rw [step_reset hr] at h
    cases h
    rw [applyReset_regs]
    rfl
  · rw [step_running h hrun, microStep_sample, if_pos rfl]
    rfl

/-- Settles O35, by induction on the steps: the last step of the run writes the triple, or leaves it to the steps
before. -/
theorem sampleIsThatOfTheLastDec : Obligations.SampleIsThatOfTheLastDec := by
  unfold Obligations.SampleIsThatOfTheLastDec
  intro n s t h
  induction n generalizing t with
  | zero =>
    cases h
    exact .inl ⟨fun j hj => absurd hj (Nat.not_lt_zero j), rfl⟩
  | succ n ih =>
    obtain ⟨u, hu, hstep⟩ := runs_succ_eq_next h
    obtain ⟨hkeep, hreset, hdec⟩ := sampleIsWrittenOnlyByDec u t hstep
    cases hw : u.writesSample with
    | true =>
      refine .inr ⟨n, Nat.lt_succ_self n, u, hu, hw, fun i hi hi' => absurd hi (by omega), ?_⟩
      split
      · exact hreset ‹_›
      · rename_i hr
        exact hdec (by simpa [State.writesSample, hr] using hw)
    | false =>
      have hlast {i : Nat} (hi : n ≤ i) (hi' : i < n + 1) (v : State) (hv : runs i s = .next v) :
          v.writesSample = false := by
        obtain rfl : i = n := by omega
        rw [hu] at hv
        cases hv
        exact hw
      obtain ⟨hnone, hsame⟩ | ⟨j, hj, v, hv, hvw, hlater, hval⟩ := ih u hu
      · refine .inl ⟨fun j hj v hv => ?_, (hkeep hw).trans hsame⟩
        obtain hjn | hjn := Nat.lt_or_ge j n
        exacts [hnone j hjn v hv, hlast hjn hj v hv]
      · refine .inr ⟨j, by omega, v, hv, hvw, fun i hji hi w hwi => ?_, (hkeep hw).trans hval⟩
        obtain hin | hin := Nat.lt_or_ge i n
        exacts [hlater i hji hin w hwi, hlast hin hi w hwi]

end Sys2Proof.Machine
end

section
/-! PROOF. The invariants of 10_state.md (R26): each step and each edge keeps them, reset meets them, and the counter
fits the width that R7 derives (R18). -/

namespace Sys2Proof.Machine

/-! ### Step numbers -/

/-- The step number of a micro-operation (R63). -/
def microNumber : Micro → Nat
  | .csa    => 0
  | .dly n  => 2 * n.val + 1
  | .xchg k => 2 * k.val + 2
  | .csd    => 17
  | .dec    => 18

/-- The step decoder selects a micro-operation at its number (R48). -/
theorem decodeStep_eq_some_iff_number (v : BitVec 5) (m : Micro) : decodeStep v = some m ↔ v.toNat = microNumber m := by
  rw [decodeStep_eq_some_iff, ← BitVec.toNat_inj]
  cases m with
  | dly n => rw [BitVec.toNat_ofNat, microNumber, Nat.mod_eq_of_lt (by omega)]
  | xchg k => rw [BitVec.toNat_ofNat, microNumber, Nat.mod_eq_of_lt (by omega)]
  | _ => rfl

/-- A step that ends its command, by its number (R61, R68). -/
theorem Regs.endsCommand_iff (r : Regs) :
    r.EndsCommand ↔ r.step.toNat = 18 ∨ (r.step.toNat = 17 ∧ r.opr.getLsbD 1 = false) := by
  rw [Regs.EndsCommand, ← BitVec.toNat_inj, ← BitVec.toNat_inj]
  rfl

/-! ### What both levels share -/

/-- The shared invariant speaks of five registers. -/
theorem Regs.CoreInv.congr {r u : Regs} (h : r.CoreInv) (hbusy : u.busy = r.busy) (hdone : u.done = r.done)
    (hopr : u.opr = r.opr) (hstep : u.step = r.step) (hcs : u.cs = r.cs) : u.CoreInv := by
  unfold Regs.CoreInv at *
  rwa [hbusy, hdone, hopr, hstep, hcs]

/-- Acceptance keeps the invariant: an idle machine has chip-select deasserted (R26, R55). -/
theorem Regs.CoreInv.accept {r : Regs} (h : r.CoreInv) (hb : r.busy = false) {op : BitVec 2} (hop : op ≠ 0) :
    (accept op r).CoreInv := by
  obtain ⟨-, -, -, -, hcs, -⟩ := h
  have hlow : r.cs = false := by simpa [hb] using hcs
  obtain rfl | rfl | rfl : op = 1 ∨ op = 2 ∨ op = 3 := by revert op; decide
  all_goals simp [Regs.CoreInv, hlow]

/-- After a micro-operation chip-select is asserted just when it was one of the steps 0 to 16 (R26 item 3). -/
theorem Regs.CoreInv.cs_runMicro_iff {r : Regs} (h : r.CoreInv) (hb : r.busy = true) {m : Micro}
    (hm : decodeStep r.step = some m) (rx : Byte) : (runMicro m rx r).cs = true ↔ r.step.toNat ≤ 16 := by
  obtain ⟨-, -, -, -, hcs, -⟩ := h
  have hnum := (decodeStep_eq_some_iff_number r.step m).1 hm
  rw [runMicro_cs]
  cases m with
  | csa => simp [hnum, microNumber]
  | csd => simp [hnum, microNumber]
  | _ =>
    simp only [microNumber] at hnum
    simp only [hcs, hb, true_and]
    omega

/-- The end of a micro-operation keeps the invariant, `u` being the registers that it hands to the sequencer (R61,
R68). -/
theorem Regs.CoreInv.endMicro {r u : Regs} (h : r.CoreInv) (hb : r.busy = true) {m : Micro}
    (hm : decodeStep r.step = some m) (hbusy : u.busy = r.busy) (hdone : u.done = r.done) (hopr : u.opr = r.opr)
    (hstep : u.step = r.step) (hcs : u.cs = (runMicro m 0 r).cs) : (endMicro u).CoreInv := by
  have hsel := h.cs_runMicro_iff hb hm 0
  rw [← hcs] at hsel
  have hle := decodeStep_le hm
  obtain ⟨-, hopr0, hbit0, hbit1, -, hnot⟩ := h
  by_cases hends : u.EndsCommand
  · have hlow : u.cs = false := by
      rw [Bool.eq_false_iff, ne_eq, hsel]
      have := u.endsCommand_iff.1 hends
      rw [hstep] at this
      omega
    rw [endMicro_of_ends hends]
    simp [Regs.CoreInv, hlow]
  · have hgoes := mt u.endsCommand_iff.2 hends
    rw [hstep, hopr] at hgoes
    have hnext : (u.step + 1).toNat = r.step.toNat + 1 := by
      bv_omega
    rw [endMicro_of_not_ends hends]
    refine ⟨?_, fun _ => ⟨?_, ?_⟩, fun _ hlow => ?_, fun _ hlast => ?_, ?_, ?_⟩
    · simp [hbusy, hb]
    · rw [advance_step, hnext]
      omega
    · rw [advance_opr, hopr]
      exact (hopr0 hb).2
    · rw [advance_step, hnext] at hlow
      rw [advance_opr, hopr]
      exact hbit0 hb (by omega)
    · rw [advance_step, ← BitVec.toNat_inj, hnext] at hlast
      rw [advance_opr, hopr]
      by_contra hbit
      exact hgoes (.inr ⟨by simpa using hlast, by simpa using hbit⟩)
    · rw [advance_cs, hsel, advance_busy, hbusy, advance_step, hnext]
      simp only [hb, true_and]
      omega
    · rwa [advance_busy, advance_done, hbusy, hdone]

/-- A busy machine that meets the invariant is at a step of the micro-program. -/
theorem Regs.CoreInv.decodes {r : Regs} (h : r.CoreInv) (hb : r.busy = true) : ∃ m, decodeStep r.step = some m := by
  obtain ⟨-, hstep, -⟩ := h
  exact decodeStep_isSome (hstep hb).1

/-- An idle machine that meets the invariant is idle in the sense of R55. -/
theorem Regs.CoreInv.idle {r : Regs} (h : r.CoreInv) (hb : r.busy = false) : r.Idle := by
  obtain ⟨hstep, -⟩ := h
  exact ⟨hb, by simp [hstep hb]⟩

/-! ### Reset -/

/-- Settles O39: the reset registers are those of an idle machine at rest. -/
theorem resetMeetsTheInvariants : Obligations.ResetMeetsTheInvariants := by
  unfold Obligations.ResetMeetsTheInvariants
  refine ⟨by decide, fun t => ⟨by decide, fun _ => ⟨rfl, rfl⟩, fun m hb => ?_, fun hs => ?_⟩⟩
  · cases hb
  · cases hs

/-! ### The architectural level -/

/-- Acceptance leaves the counter and the clock line at rest. -/
theorem Regs.ArchInv.accept {r : Regs} (h : r.ArchInv) (hb : r.busy = false) {op : BitVec 2} (hop : op ≠ 0) :
    (accept op r).ArchInv := by
  obtain ⟨hcore, -, hsclk⟩ := h
  exact ⟨hcore.accept hb hop, rfl, hsclk⟩

/-- An offer keeps the invariant: it is an acceptance or changes no register. -/
theorem offer_archInv (op : BitVec 2) {s : State} (h : s.regs.ArchInv) : (offer op s).regs.ArchInv := by
  unfold offer
  split
  · exact h
  · split
    · exact h
    · exact h.accept (by simpa using ‹¬ s.regs.busy = true›) ‹_›

/-- A micro-operation leaves the clock line low (R75). -/
theorem runMicro_sclk {r : Regs} (h : r.sclk = false) (m : Micro) (rx : Byte) : (runMicro m rx r).sclk = false := by
  cases m <;> simp [runMicro, h]

/-- A micro-operation of a busy machine keeps the invariant. -/
theorem Regs.ArchInv.runMicro {r : Regs} (h : r.ArchInv) (hb : r.busy = true) {m : Micro}
    (hm : decodeStep r.step = some m) (rx : Byte) : (runMicro m rx r).ArchInv := by
  obtain ⟨hcore, -, hsclk⟩ := h
  refine ⟨?_, runMicro_cnt .., runMicro_sclk hsclk m rx⟩
  cases m <;> exact hcore.endMicro hb hm rfl rfl rfl rfl (by simp [Machine.runMicro])

/-- Settles O37: a step is a reset, a micro-operation, an offer, or idle; each keeps the invariant. -/
theorem stepKeepsTheInvariant : Obligations.StepKeepsTheInvariant := by
  unfold Obligations.StepKeepsTheInvariant
  intro s h
  cases hr : s.nextPorts.rst with
  | true => exact ⟨_, step_reset hr, by rw [applyReset_regs]; exact resetMeetsTheInvariants.1⟩
  | false =>
    cases hb : s.regs.busy with
    | true =>
      obtain ⟨m, hm⟩ := h.1.decodes hb
      exact ⟨_, step_busy hr hb hm, h.runMicro hb hm s.busAnswer⟩
    | false =>
      refine ⟨_, step_idle hr hb (h.1.idle hb).2, ?_⟩
      split
      · exact offer_archInv _ h
      · exact h

/-! ### The cycle level -/

section
variable {t : Timing} {r : Regs}

/-- A micro-operation's cycles can be counted in the least width that R7 derives (R18). -/
theorem microCycles_le_counterWidth (ht : t.Ok) (m : Micro) : microCycles t m ≤ 2 ^ counterWidth t := by
  have hwidth := durations_le_counterWidth t
  cases m with
  | dly n =>
    have := (delayCycles_bounds ht n).2
    simp only [microCycles]
    omega
  | xchg k =>
    simp only [microCycles, exchangeCycles]
    omega
  | _ => exact Nat.one_le_two_pow

/-- Under the invariant CNT is below 2 to the least width. -/
theorem Regs.CycleInv.cnt_lt (h : r.CycleInv t) (ht : t.Ok) : r.cnt < 2 ^ counterWidth t := by
  obtain ⟨hcore, hrest, hcnt, -⟩ := h
  cases hb : r.busy with
  | false =>
    rw [(hrest hb).1]
    exact Nat.two_pow_pos _
  | true =>
    obtain ⟨m, hm⟩ := hcore.decodes hb
    exact (hcnt m hb hm).trans_le (microCycles_le_counterWidth ht m)

/-- Under the invariant the `W_CNT` bits of the counter hold CNT. -/
theorem Regs.CycleInv.count_eq (h : r.CycleInv t) (ht : t.Ok) : r.count t = r.cnt :=
  Regs.count_of_lt ((h.cnt_lt ht).trans_le (Nat.pow_le_pow_right (by decide) (counterWidth_le ht)))

/-- In a busy cycle that is not the last of its micro-operation the counter does not wrap. -/
theorem Regs.CycleInv.countUp_eq (h : r.CycleInv t) (ht : t.Ok) (hb : r.busy = true) {m : Micro}
    (hm : decodeStep r.step = some m) (hc : r.count t ≠ microCycles t m - 1) :
    r.countUp t = r.cnt + 1 ∧ r.cnt + 1 < microCycles t m := by
  rw [h.count_eq ht] at hc
  obtain ⟨-, -, hcnt, -⟩ := h
  have hnext : r.cnt + 1 < microCycles t m := by
    have := hcnt m hb hm
    omega
  exact ⟨Regs.countUp_of_lt (hnext.trans_le (microCycles_le ht m)), hnext⟩

/-- Acceptance keeps the invariant of the cycle level. -/
theorem Regs.CycleInv.accept (h : r.CycleInv t) (ht : t.Ok) (hb : r.busy = false) {op : BitVec 2} (hop : op ≠ 0) :
    (accept op r).CycleInv t := by
  obtain ⟨hcore, hrest, -, -⟩ := h
  have hsclk := (hrest hb).2
  refine ⟨hcore.accept hb hop, fun _ => ⟨rfl, hsclk⟩, fun m _ _ => microCycles_pos ht m, fun hs => ?_⟩
  rw [accept_sclk, hsclk] at hs
  cases hs

/-- Chip-select after the last cycle of a micro-operation is what the whole micro-operation leaves. -/
theorem microCycle_last_frame (m : Micro) (miso : Bool) :
    (microCycle t m miso true r).busy = r.busy ∧ (microCycle t m miso true r).done = r.done ∧
    (microCycle t m miso true r).opr = r.opr ∧ (microCycle t m miso true r).step = r.step ∧
    (microCycle t m miso true r).cs = (runMicro m 0 r).cs := by
  cases m <;> simp [microCycle, runMicro, bitEngine]

/-- The clock line is low after the last cycle of a micro-operation (R71, R73). -/
theorem Regs.CycleInv.sclk_last (h : r.CycleInv t) (ht : t.Ok) {m : Micro} (hm : decodeStep r.step = some m)
    (hc : r.count t = microCycles t m - 1) (miso : Bool) : (microCycle t m miso true r).sclk = false := by
  obtain ⟨-, -, -, hsclk⟩ := h
  have hlow (hx : ∀ k, m ≠ .xchg k) : r.sclk = false := by
    rw [Bool.eq_false_iff]
    intro hs
    obtain ⟨k, hk⟩ := hsclk hs
    rw [hm] at hk
    exact hx k (by simpa using hk)
  cases m with
  | xchg k =>
    have hend : r.count t % (2 * t.h) = 2 * t.h - 1 := by
      rw [hc]
      exact exchange_last_mod ht
    simp only [microCycle, bitEngine, hend, if_true]
  | _ => exact hlow (by simp)

/-- The last cycle of a micro-operation keeps the invariant. -/
theorem Regs.CycleInv.last (h : r.CycleInv t) (ht : t.Ok) (hb : r.busy = true) {m : Micro}
    (hm : decodeStep r.step = some m) (hc : r.count t = microCycles t m - 1) (miso : Bool) :
    (Machine.endMicro (microCycle t m miso true r)).CycleInv t := by
  obtain ⟨hbusy, hdone, hopr, hstep, hcs⟩ := microCycle_last_frame (t := t) (r := r) m miso
  have hsclk := (endMicro_sclk _).trans (h.sclk_last ht hm hc miso)
  refine ⟨h.1.endMicro hb hm hbusy hdone hopr hstep hcs, fun _ => ⟨endMicro_cnt _, hsclk⟩, fun n _ _ => ?_,
    fun hs => ?_⟩
  · rw [endMicro_cnt]
    exact microCycles_pos ht n
  · rw [hsclk] at hs
    cases hs

/-- Any other cycle of a micro-operation keeps the invariant: only a delay or an exchange has one. -/
theorem Regs.CycleInv.goesOn (h : r.CycleInv t) (ht : t.Ok) (hb : r.busy = true) {m : Micro}
    (hm : decodeStep r.step = some m) (hc : r.count t ≠ microCycles t m - 1) (miso : Bool) :
    Regs.CycleInv t { microCycle t m miso false r with cnt := r.countUp t } := by
  obtain ⟨hup, hnext⟩ := h.countUp_eq ht hb hm hc
  rw [hup]
  obtain ⟨hcore, -, -, hsclk⟩ := h
  have hcount : ∀ n, decodeStep r.step = some n → r.cnt + 1 < microCycles t n := by
    intro n hn
    rw [hm] at hn
    cases hn
    exact hnext
  cases m with
  | dly n =>
    exact ⟨hcore.congr rfl rfl rfl rfl rfl, fun hi => absurd (hb.symm.trans hi) (by decide),
      fun n _ => hcount n, hsclk⟩
  | xchg k =>
    exact ⟨hcore.congr rfl rfl rfl rfl rfl, fun hi => absurd (hb.symm.trans hi) (by decide),
      fun n _ => hcount n, fun _ => ⟨k, hm⟩⟩
  | _ => simp [microCycles] at hnext

end

/-- Settles O38: an edge is a reset, a last cycle, another cycle, an acceptance, or nothing; each keeps the
invariant. -/
theorem edgeKeepsTheInvariant : Obligations.EdgeKeepsTheInvariant := by
  unfold Obligations.EdgeKeepsTheInvariant
  intro t i r ht h
  cases hr : i.host.rst with
  | true => exact ⟨_, cycle_reset hr, resetMeetsTheInvariants.2 t⟩
  | false =>
    cases hb : r.busy with
    | true =>
      obtain ⟨m, hm⟩ := h.1.decodes hb
      refine ⟨_, cycle_busy hr hb hm, ?_⟩
      split
      · exact h.last ht hb hm ‹_› i.miso
      · exact h.goesOn ht hb hm ‹_› i.miso
    | false =>
      refine ⟨_, cycle_idle hr hb (h.1.idle hb).2, ?_⟩
      split
      · rename_i hoffer
        exact h.accept ht hb hoffer.2
      · exact h

/-- Settles O40: the durations fit the least width, and CNT stays below them. -/
theorem counterFitsItsWidth : Obligations.CounterFitsItsWidth := fun _ _ ht h =>
  ⟨counterWidth_le ht, h.cnt_lt ht, h.count_eq ht, fun _ hb hm hc => (h.countUp_eq ht hb hm hc).1⟩

/-! ### The machine's own parameters -/

/-- The hold delays of the machine are built from the last gap up, so none is longer than the one before it (R7). -/
theorem timing_nHold_succ_le (k : Fin 6) : Config.timing.nHold[k.succ] ≤ Config.timing.nHold[k.castSucc] := by
  fin_cases k
  · exact Nat.le_add_right_of_le (Nat.le_succ _)
  all_goals exact Nat.le_add_right _ _

theorem timing_nHold_antitone : Antitone fun k : Fin 7 => Config.timing.nHold[k] :=
  Fin.antitone_iff_succ_le.2 timing_nHold_succ_le

/-- The first gap is strict (R7, D14). -/
theorem timing_nHold_lt_first (k : Fin 7) (hk : k ≠ 0) : Config.timing.nHold[k] < Config.timing.nHold[(0 : Fin 7)] := by
  have hfirst : Config.timing.nHold[(1 : Fin 7)] < Config.timing.nHold[(0 : Fin 7)] := by
    change Config.nHold1 < Config.nHold1 + 1 + Config.holdExtra 0
    omega
  exact (timing_nHold_antitone (Fin.one_le_of_ne_zero hk)).trans_lt hfirst

/-- The last hold delay is at least one cycle, and so is each (R7). -/
theorem timing_nHold_pos (k : Fin 7) : 1 ≤ Config.timing.nHold[k] := by
  have hlast : 1 ≤ Config.timing.nHold[(6 : Fin 7)] := Nat.le_add_right 1 _
  exact hlast.trans (timing_nHold_antitone (Fin.le_last k))

/-- The width of the machine's counter is the least one, or more (R7). -/
theorem counterWidth_timing_le : counterWidth Config.timing ≤ Config.timing.wCnt := Nat.le_add_right _ _

/-- Settles O41: the delays step by step from the last one up, the width over the least one. -/
theorem openParametersAreAdmissible : Obligations.OpenParametersAreAdmissible := by
  refine ⟨Nat.le_add_right 1 _, Nat.le_add_right 1 _, timing_nHold_pos, timing_nHold_lt_first,
    fun _ _ _ hkl => timing_nHold_antitone hkl, (le_max_left 1 _).trans counterWidth_timing_le, ?_⟩
  exact (durations_le_counterWidth Config.timing).trans (Nat.pow_le_pow_right (by decide) counterWidth_timing_le)

end Sys2Proof.Machine
end

section
/-! PROOF. The micro-program of a read cycle (R63), as both levels run it: the registers after each number of its
micro-operations, given the eight bytes that its exchanges receive. -/

namespace Sys2Proof.Machine

/-- The micro-operation at step n, for n up to 18 (R48, R63). -/
def microAt (n : Nat) : Micro := (decodeStep (BitVec.ofNat 5 n)).getD .dec

theorem decodeStep_ofNat {n : Nat} (hn : n ≤ 18) : decodeStep (BitVec.ofNat 5 n) = some (microAt n) := by
  obtain ⟨m, hm⟩ := decodeStep_isSome (v := BitVec.ofNat 5 n) (by rw [BitVec.toNat_ofNat]; omega)
  rw [microAt, hm, Option.getD_some]

/-- The micro-operation at step n has number n. -/
theorem microNumber_microAt {n : Nat} (hn : n ≤ 18) : microNumber (microAt n) = n := by
  rw [← (decodeStep_eq_some_iff_number _ _).1 (decodeStep_ofNat hn), BitVec.toNat_ofNat, Nat.mod_eq_of_lt (by omega)]

theorem microAt_microNumber (m : Micro) : microAt (microNumber m) = m := by
  have hle : microNumber m ≤ 18 := by
    obtain ⟨v, hv⟩ := exists_decodeStep m
    rw [← (decodeStep_eq_some_iff_number v m).1 hv]
    exact decodeStep_le hv
  have hm := (decodeStep_eq_some_iff_number (BitVec.ofNat 5 (microNumber m)) m).2
    (by rw [BitVec.toNat_ofNat, Nat.mod_eq_of_lt (by omega)])
  rw [microAt, hm, Option.getD_some]

/-- The registers n micro-operations into a read cycle that starts from `r`, for n up to 17, `a` being the bytes that
the exchanges receive: those of the exchanges that are over are in `FB`, and the last of them in `SR`. -/
def Regs.inReadCycle (a : Frame) (r : Regs) (n : Nat) : Regs :=
  { r with
    fb   := Vector.ofFn fun k => if 2 * k.val + 3 ≤ n then a[k] else r.fb[k]
    step := BitVec.ofNat 5 n
    cnt  := 0
    sr   := if n < 3 then r.sr else a[Fin.ofNat 8 ((n - 3) / 2)]
    cs   := decide (1 ≤ n) || r.cs
    sclk := decide (n < 3) && r.sclk }

section
variable (a : Frame) (r : Regs) (n : Nat)

@[simp] theorem Regs.inReadCycle_opr : (r.inReadCycle a n).opr = r.opr := rfl
@[simp] theorem Regs.inReadCycle_step : (r.inReadCycle a n).step = BitVec.ofNat 5 n := rfl
@[simp] theorem Regs.inReadCycle_cs : (r.inReadCycle a n).cs = (decide (1 ≤ n) || r.cs) := rfl
@[simp] theorem Regs.inReadCycle_sclk : (r.inReadCycle a n).sclk = (decide (n < 3) && r.sclk) := rfl
@[simp] theorem Regs.inReadCycle_fb (k : Fin 8) :
    (r.inReadCycle a n).fb[k] = if 2 * k.val + 3 ≤ n then a[k] else r.fb[k] := by
  simp [Regs.inReadCycle]

theorem Regs.inReadCycle_step_toNat {n : Nat} (hn : n ≤ 18) : (r.inReadCycle a n).step.toNat = n := by
  rw [Regs.inReadCycle_step, BitVec.toNat_ofNat, Nat.mod_eq_of_lt (by omega)]

theorem Regs.decodeStep_inReadCycle {n : Nat} (hn : n ≤ 18) :
    decodeStep (r.inReadCycle a n).step = some (microAt n) := decodeStep_ofNat hn

end

/-- A read cycle starts at step 0. -/
theorem Regs.inReadCycle_zero (a : Frame) {r : Regs} (hs : r.step = 0) (hc : r.cnt = 0) : r.inReadCycle a 0 = r := by
  have hfb : (Vector.ofFn fun k : Fin 8 => r.fb[k]) = r.fb := Vector.ext fun k hk => by simp
  cases r
  simp_all [Regs.inReadCycle]

/-- Each micro-operation before CSD leads from the registers of its step to those of the next, an exchange receiving its
byte of `a`. -/
theorem runMicro_inReadCycle (a : Frame) (r : Regs) {n : Nat} (hn : n ≤ 16) {rx : Byte}
    (hrx : ∀ k, microAt n = .xchg k → rx = a[k]) :
    runMicro (microAt n) rx (r.inReadCycle a n) = r.inReadCycle a (n + 1) := by
  have hnum := microNumber_microAt (n := n) (by omega)
  have hstep := r.inReadCycle_step_toNat a (n := n) (by omega)
  cases hm : microAt n with
  | csa =>
    rw [hm, microNumber] at hnum
    subst hnum
    exact (endMicro_csa (r := r.inReadCycle a 0) rfl).trans (by simp [Regs.inReadCycle])
  | dly k =>
    rw [hm, microNumber] at hnum
    subst hnum
    refine (endMicro_dly (r := r.inReadCycle a _) 0 hstep).trans ?_
    have hfb (i : Fin 8) : 2 * i.val + 3 ≤ 2 * k.val + 1 + 1 ↔ 2 * i.val + 3 ≤ 2 * k.val + 1 := by omega
    have hlow : 2 * k.val + 1 + 1 < 3 ↔ 2 * k.val + 1 < 3 := by omega
    have hlast : (2 * k.val + 1 + 1 - 3) / 2 = (2 * k.val + 1 - 3) / 2 := by omega
    simp only [Regs.inReadCycle, hfb, hlow, hlast, Nat.le_add_left, decide_true]
  | xchg k =>
    rw [hm, microNumber] at hnum
    subst hnum
    refine (endMicro_xchg (r := r.inReadCycle a _) rx hstep).trans ?_
    rw [hrx k hm]
    have hhigh : ¬ 2 * k.val + 2 + 1 < 3 := by omega
    have hlast : (2 * k.val + 2 + 1 - 3) / 2 = k.val := by omega
    have hfb : (r.inReadCycle a (2 * k.val + 2)).fb.set k a[k] = (r.inReadCycle a (2 * k.val + 2 + 1)).fb := by
      refine Vector.ext fun i hi => ?_
      by_cases hik : k.val = i
      · simp [Regs.inReadCycle, hik]
      · have hold : 2 * i + 3 ≤ 2 * k.val + 2 + 1 ↔ 2 * i + 3 ≤ 2 * k.val + 2 := by omega
        simp only [Fin.getElem_fin, Vector.getElem_set_ne _ _ hik, Regs.inReadCycle, Vector.getElem_ofFn, hold]
    rw [hfb]
    simp only [Regs.inReadCycle, hhigh, hlast, Nat.le_add_left, decide_true, decide_false, if_false,
      Bool.false_and, Fin.ofNat_val_eq_self]
  | csd =>
    rw [hm, microNumber] at hnum
    omega
  | dec =>
    rw [hm, microNumber] at hnum
    omega

/-- The registers after CSD (R61, R67): DEC is next in a SAMPLE, and a READ_RAW is complete. -/
def Regs.afterTransport (a : Frame) (r : Regs) : Regs :=
  { r with
    fb   := a
    busy := r.opr.getLsbD 1
    done := if r.opr.getLsbD 1 then r.done else true
    step := if r.opr.getLsbD 1 then 18 else 0
    cnt  := 0
    sr   := a[7]
    cs   := false
    sclk := false }

/-- CSD, seventeen micro-operations into a read cycle. -/
theorem runMicro_csd_inReadCycle (a : Frame) {r : Regs} (hb : r.busy = true) (rx : Byte) :
    runMicro (microAt 17) rx (r.inReadCycle a 17) = r.afterTransport a := by
  have hfb : (r.inReadCycle a 17).fb = a := Vector.ext fun k hk => by
    have hbyte := r.inReadCycle_fb a 17 ⟨k, hk⟩
    rwa [if_pos (show 2 * k + 3 ≤ 17 by omega)] at hbyte
  refine (endMicro_csd (r := r.inReadCycle a 17) rfl).trans ?_
  rw [Regs.afterTransport, hfb]
  cases h : r.opr.getLsbD 1
  · rw [Regs.inReadCycle_opr, h]
    rfl
  · simp [h, Regs.inReadCycle, hb]

end Sys2Proof.Machine
end

section
/-! PROOF. Whole commands at the architectural level (40_host_commands.md R57, R59, R62; 41_transport_microops.md R69,
R70; 70_reset_and_hazards.md R113; 60_exceptions.md R98): the states of a read cycle, one micro-operation a step, and what
they show of the registers, the sensor, the lines and time. -/

namespace Sys2Proof.Machine

/-! ### The states of a read cycle -/

/-- The state n micro-operations after `s`, one a step from step 0 of the micro-program on. -/
def afterMicros (s : State) : Nat → State
  | 0     => s
  | n + 1 => microStep (microAt n) (afterMicros s n).popPorts

/-- The bytes that the sensor answers in a read cycle that starts from `s`: exchange k is at step 2k + 2. -/
def State.answers (s : State) : Frame := Vector.ofFn fun k => (afterMicros s (2 * k.val + 2)).busAnswer

/-- Each micro-operation spends the inputs of its step. -/
theorem afterMicros_ports (s : State) (n : Nat) : (afterMicros s n).ports = s.ports.drop n := by
  induction n with
  | zero => rfl
  | succ n ih => rw [← List.tail_drop, ← ih]; rfl

theorem afterMicros_regs_succ (s : State) (n : Nat) :
    (afterMicros s (n + 1)).regs = runMicro (microAt n) (afterMicros s n).busAnswer (afterMicros s n).regs := rfl

/-- Before CSD the registers are those of `Regs.inReadCycle`, with the sensor's answers. -/
theorem afterMicros_regs {s : State} (hs : s.regs.step = 0) (hc : s.regs.cnt = 0) {n : Nat} (hn : n ≤ 17) :
    (afterMicros s n).regs = s.regs.inReadCycle s.answers n := by
  induction n with
  | zero => exact (s.regs.inReadCycle_zero _ hs hc).symm
  | succ n ih =>
    have hanswer (k : Fin 8) (hk : microAt n = .xchg k) : (afterMicros s n).busAnswer = s.answers[k] := by
      have hnum := microNumber_microAt (n := n) (by omega)
      rw [hk, microNumber] at hnum
      simp [State.answers, hnum]
    rw [afterMicros_regs_succ, ih (by omega), runMicro_inReadCycle _ _ (by omega) hanswer]

/-- The registers after CSD. -/
theorem afterMicros_regs_csd {s : State} (hb : s.regs.busy = true) (hs : s.regs.step = 0) (hc : s.regs.cnt = 0) :
    (afterMicros s 18).regs = s.regs.afterTransport s.answers := by
  rw [afterMicros_regs_succ s 17, afterMicros_regs hs hc le_rfl, runMicro_csd_inReadCycle _ hb]

/-- The registers after DEC, of a SAMPLE. -/
theorem afterMicros_regs_dec {s : State} (hb : s.regs.busy = true) (hs : s.regs.step = 0) (hc : s.regs.cnt = 0)
    (hopr : s.regs.opr.getLsbD 1 = true) :
    (afterMicros s 19).regs = complete (latchSample (fdDecode s.answers) (s.regs.afterTransport s.answers)) := by
  have hcsd := afterMicros_regs_csd hb hs hc
  have hmicro : (afterMicros s 19).regs = runMicro .dec (afterMicros s 18).busAnswer (afterMicros s 18).regs :=
    afterMicros_regs_succ s 18
  have hdec : (s.regs.afterTransport s.answers).step = 18 := if_pos hopr
  rw [hmicro, hcsd]
  exact endMicro_of_ends (r := latchSample (fdDecode s.answers) (s.regs.afterTransport s.answers)) (.inl hdec)

/-- A busy machine goes through these states, to CSD and in a SAMPLE to DEC. -/
theorem runs_afterMicros {s : State} (hb : s.regs.busy = true) (hs : s.regs.step = 0) (hc : s.regs.cnt = 0) {n : Nat}
    (hr : s.NoReset n) (hn : n ≤ 18 ∨ (n = 19 ∧ s.regs.opr.getLsbD 1 = true)) : runs n s = .next (afterMicros s n) := by
  induction n with
  | zero => rfl
  | succ n ih =>
    have hprev := ih (hr.mono (Nat.le_succ n)) (by omega)
    have hrst : (afterMicros s n).nextPorts.rst = false := by
      rw [State.nextPorts, afterMicros_ports]
      cases hd : s.ports.drop n with
      | nil => rfl
      | cons p ps =>
        refine hr p ?_
        rw [List.take_add_one, List.mem_append, ← List.head?_drop, hd]
        exact .inr (by simp)
    have hat : (afterMicros s n).regs.busy = true ∧ decodeStep (afterMicros s n).regs.step = some (microAt n) := by
      obtain hlt | ⟨hlast, hopr⟩ := hn
      · rw [afterMicros_regs hs hc (Nat.le_of_succ_le_succ hlt)]
        exact ⟨hb, decodeStep_ofNat (by omega)⟩
      · obtain rfl : n = 18 := Nat.succ_injective hlast
        rw [afterMicros_regs_csd hb hs hc]
        exact ⟨hopr, by rw [Regs.afterTransport, hopr]; exact decodeStep_ofNat le_rfl⟩
    rw [runs_snoc, hprev]
    exact step_busy hrst hat.1 hat.2

/-! ### Acceptance -/

/-- The state after the step that accepts `op`. -/
def State.accepted (op : BitVec 2) (s : State) : State := (s.popPorts.elapse 1).setRegs (accept op s.regs)

@[simp] theorem State.accepted_opr (op : BitVec 2) (s : State) : (s.accepted op).regs.opr = op := rfl

/-- A transport command starts at CSA (R55). -/
theorem State.accepted_step {op : BitVec 2} (hop : op.getLsbD 0 = true) (s : State) :
    (s.accepted op).regs.step = 0 := if_pos hop

/-- A run in which a transport command is offered: its acceptance, and the micro-operations. -/
theorem runs_offered {s : State} {op : BitVec 2} {n : Nat} (h : s.Offered op (n + 1)) (hop : op.getLsbD 0 = true)
    (hn : n ≤ 18 ∨ (n = 19 ∧ op.getLsbD 1 = true)) :
    runs (n + 1) s = .next (afterMicros (s.accepted op) n) := by
  obtain ⟨hidle, hp, hr⟩ := h
  have hne : op ≠ 0 := by
    rintro rfl
    cases hop
  have haccept : step s = .next (s.accepted op) := by
    simpa only [hp, State.accepted] using
      step_of_start (s := s) (by rw [hp]) hidle (by rw [hp]) (by rwa [hp])
  rw [runs_succ_next haccept]
  exact runs_afterMicros (s := s.accepted op) rfl (s.accepted_step hop) rfl (tail_take_of_take hr) hn

/-! ### What the sensor answers -/

/-- Each exchange that is over has consumed one byte (R36). -/
theorem afterMicros_sensor (s : State) {n : Nat} (hn : n ≤ 18) :
    (afterMicros s n).sensor = sensorRest^[(n - 1) / 2] s.sensor := by
  induction n with
  | zero => rfl
  | succ n ih =>
    have hprev := ih (by omega)
    have hnum := microNumber_microAt (n := n) (by omega)
    cases hm : microAt n with
    | xchg k =>
      rw [hm, microNumber] at hnum
      rw [show (n + 1 - 1) / 2 = (n - 1) / 2 + 1 by omega, Function.iterate_succ_apply', ← hprev]
      simp only [afterMicros, microStep, hm, State.popPorts_sensor]
    | _ =>
      rw [hm, microNumber] at hnum
      rw [show (n + 1 - 1) / 2 = (n - 1) / 2 by omega, ← hprev]
      simp only [afterMicros, microStep, hm, State.popPorts_sensor]

/-- The answer of exchange k, by what the sensor holds then. -/
theorem State.answers_getElem (s : State) (k : Fin 8) :
    s.answers[k] = sensorAnswer (Config.sensorByte (afterMicros s (2 * k.val + 2)).tick)
      (sensorRest^[k.val] s.sensor) := by
  have hsensor := afterMicros_sensor s (n := 2 * k.val + 2) (by omega)
  rw [show (2 * k.val + 2 - 1) / 2 = k.val by omega] at hsensor
  simp [State.answers, State.busAnswer, hsensor]

theorem sensorRest_iterate_stream (q : List Byte) (n : Nat) : sensorRest^[n] (.stream q) = .stream (q.drop n) := by
  induction n generalizing q with
  | zero => rfl
  | succ n ih => rw [Function.iterate_succ_apply, sensorRest, ih, List.drop_tail]

/-- A stream that begins with the eight bytes of `b` answers them in order, and they are consumed. -/
theorem State.answers_of_stream {s : State} {b : Frame} {q : List Byte} (h : s.sensor = .stream (b.toList ++ q)) :
    s.answers = b := by
  refine Vector.ext fun k hk => ?_
  have hbyte := s.answers_getElem ⟨k, hk⟩
  have hdrop : (b.toList ++ q).drop k = b[k] :: (b.toList ++ q).drop (k + 1) := by
    rw [List.drop_eq_getElem_cons (by simp; omega), List.getElem_append_left (by simpa using hk)]
    rfl
  rw [h, sensorRest_iterate_stream, hdrop] at hbyte
  exact hbyte

/-- A stuck line answers its level in all eight bits, every time (R70). -/
theorem State.answers_of_stuck {s : State} {level : Bool} (h : s.sensor = .stuck level) (k : Fin 8) :
    s.answers[k] = if level then 255 else 0 := by
  rw [s.answers_getElem, h, Function.iterate_fixed rfl]
  rfl

theorem afterMicros_sensor_of_stream {s : State} {b : Frame} {q : List Byte} (h : s.sensor = .stream (b.toList ++ q)) :
    (afterMicros s 18).sensor = .stream q := by
  rw [afterMicros_sensor s le_rfl, h, sensorRest_iterate_stream]
  simp

/-- DEC does not touch the bus (R80). -/
theorem afterMicros_sensor_dec {s : State} {n : Nat} (h : microAt n = .dec) :
    (afterMicros s (n + 1)).sensor = (afterMicros s n).sensor := by
  simp only [afterMicros, h]
  rfl

/-! ### READ_RAW and SAMPLE -/

/-- An offered READ_RAW, to its end, with what is left of the host's inputs. -/
theorem runs_readRaw {s : State} {b : Frame} {q : List Byte} (h : s.Offered 0b01 19)
    (hs : s.sensor = .stream (b.toList ++ q)) :
    ∃ t, runs 19 s = .next t ∧ t.sensor = .stream q ∧
      t.regs = { s.regs with
        fb := b, busy := false, done := true, opr := 0b01, step := 0, cnt := 0, sr := b[7], cs := false,
        sclk := false } ∧
      t.ports = s.ports.drop 19 := by
  have hregs := afterMicros_regs_csd (s := s.accepted 0b01) rfl (s.accepted_step rfl) rfl
  have hports := afterMicros_ports (s.accepted 0b01) 18
  refine ⟨_, runs_offered h rfl (.inl le_rfl), afterMicros_sensor_of_stream (s := s.accepted 0b01) hs, ?_, ?_⟩
  · rw [hregs, State.answers_of_stream (s := s.accepted 0b01) hs, Regs.afterTransport, State.accepted_opr]
    rfl
  · rw [hports]
    exact List.drop_tail

/-- Settles O42: by `runs_readRaw`. -/
theorem readRawFillsTheFrameBuffer : Obligations.ReadRawFillsTheFrameBuffer := by
  unfold Obligations.ReadRawFillsTheFrameBuffer
  intro s b q h hs
  obtain ⟨t, hrun, hsensor, hregs, -⟩ := runs_readRaw h hs
  exact ⟨t, hrun, hsensor, hregs⟩

/-- Settles O44: a SAMPLE goes on to DEC (`afterMicros_regs_dec`), the stream's bytes being the answers. -/
theorem sampleReadsAndDecodes : Obligations.SampleReadsAndDecodes := by
  unfold Obligations.SampleReadsAndDecodes
  intro s b q h hs
  have hregs := afterMicros_regs_dec (s := s.accepted 0b11) rfl (s.accepted_step rfl) rfl (by rw [s.accepted_opr]; rfl)
  refine ⟨_, runs_offered h rfl (.inr ⟨rfl, rfl⟩), ?_, ?_⟩
  · rw [afterMicros_sensor_dec (n := 18) rfl]
    exact afterMicros_sensor_of_stream (s := s.accepted 0b11) hs
  · rw [hregs, State.answers_of_stream (s := s.accepted 0b11) hs]
    rfl

/-- A run in two parts. -/
theorem runs_add_next {n : Nat} (m : Nat) {s u : State} (h : runs n s = .next u) : runs (n + m) s = runs m u := by
  induction m with
  | zero => exact h
  | succ m ih => rw [← Nat.add_assoc, runs_snoc, ih, runs_snoc]

/-- The host's inputs of a READ_RAW and a DECODE offered right after it. -/
def readRawThenDecode : List Ports :=
  { rst := false, start := true, op := 0b01 } ::
    (List.replicate 18 Ports.quiet ++ [{ rst := false, start := true, op := 0b10 }])

theorem readRawThenDecode_rst : ∀ p ∈ readRawThenDecode, p.rst = false := by decide

/-- Settles O45: the READ_RAW leaves the host's DECODE for the two steps after it (`runs_add_next`, `runs_decode`). -/
theorem sampleEqualsReadRawThenDecode : Obligations.SampleEqualsReadRawThenDecode := by
  unfold Obligations.SampleEqualsReadRawThenDecode
  intro s b q hidle hs
  obtain ⟨t, hrun, hsensor, hregs⟩ := sampleReadsAndDecodes
    { s with ports := [{ rst := false, start := true, op := 0b11 }] } b q ⟨hidle, rfl, by simp [State.NoReset]⟩ hs
  obtain ⟨u, hrun', hsensor', hregs', hports⟩ := runs_readRaw (s := { s with ports := readRawThenDecode })
    ⟨hidle, rfl, fun p hp => readRawThenDecode_rst p (List.mem_of_mem_take hp)⟩ hs
  have hoffered : u.Offered 0b10 2 := by
    refine ⟨by rw [hregs']; exact ⟨rfl, Nat.zero_le _⟩, by rw [State.nextPorts, hports]; rfl, fun p hp => ?_⟩
    rw [hports] at hp
    exact readRawThenDecode_rst p (List.mem_of_mem_drop (List.mem_of_mem_take hp))
  obtain ⟨v, hrun'', hsensor'', -, hregs''⟩ := runs_decode hoffered
  refine ⟨t, v, hrun, (runs_add_next 2 hrun').trans hrun'', ?_, by rw [hregs], ?_⟩
  · rw [hregs'', hregs', hregs]
    rfl
  · rw [hsensor, hsensor'', hsensor']

/-- Settles O47: the states before the last micro-operation, in a SAMPLE the one after CSD too. -/
theorem previousSampleShowsWhileBusy : Obligations.PreviousSampleShowsWhileBusy := by
  unfold Obligations.PreviousSampleShowsWhileBusy
  intro s op n hop h hpos hn
  obtain ⟨j, rfl⟩ : ∃ j, n = j + 1 := ⟨n - 1, by omega⟩
  have hstep := s.accepted_step hop
  obtain hj | ⟨rfl, hopr⟩ : j ≤ 17 ∨ (j = 18 ∧ op.getLsbD 1 = true) := by
    split at hn
    · rename_i hopr
      obtain hj | hj := Nat.lt_or_ge j 18
      exacts [.inl (by omega), .inr ⟨by omega, hopr⟩]
    · exact .inl (by omega)
  · have hregs := afterMicros_regs hstep rfl hj
    refine ⟨_, runs_offered h hop (.inl (by omega)), ?_⟩
    rw [hregs]
    exact ⟨rfl, rfl, rfl⟩
  · have hregs := afterMicros_regs_csd (s := s.accepted op) rfl hstep rfl
    refine ⟨_, runs_offered h hop (.inl le_rfl), ?_⟩
    rw [hregs]
    exact ⟨hopr, if_pos hopr, rfl⟩

/-- Settles O48: eight equal answers of 0 fail the marker test, and of 255 the test of the reserved bytes. -/
theorem stuckLineNeverGivesAValidSample : Obligations.StuckLineNeverGivesAValidSample := by
  unfold Obligations.StuckLineNeverGivesAValidSample
  intro s level h hs
  have hanswers := State.answers_of_stuck (s := s.accepted 0b11) hs
  have hregs := afterMicros_regs_dec (s := s.accepted 0b11) rfl (s.accepted_step rfl) rfl (by rw [s.accepted_opr]; rfl)
  refine ⟨_, runs_offered h rfl (.inr ⟨rfl, rfl⟩), ?_⟩
  rw [hregs]
  refine ⟨rfl, rfl, ?_, hanswers⟩
  change validFlag (s.accepted 0b11).answers = false
  rw [Bool.eq_false_iff, ne_eq, validFlag_iff_bytes]
  rintro ⟨h0, h5, -, -⟩
  have hmarker := (hanswers 0).symm.trans h0
  have hreserved := (hanswers 5).symm.trans h5
  cases level <;> simp at hmarker hreserved

/-! ### The lines -/

/-- How long each micro-operation takes, at least. -/
theorem afterMicros_time (s : State) (n : Nat) :
    (afterMicros s n).time + microCycles Config.timing (microAt n) ≤ (afterMicros s (n + 1)).time :=
  Nat.le_add_right _ _

/-- An exchange is on the lines with the byte answered, from its start to its end (R66). -/
theorem afterMicros_wire_xchg {s : State} {n : Nat} {k : Fin 8} (h : microAt n = .xchg k) :
    (afterMicros s (n + 1)).wire = .exchange 0 (afterMicros s n).busAnswer (afterMicros s n).time
      (afterMicros s (n + 1)).time :: (afterMicros s n).wire := by
  simp only [afterMicros, h]
  rfl

/-- A delay puts nothing on the lines (R65). -/
theorem afterMicros_wire_dly {s : State} {n : Nat} {k : Fin 8} (h : microAt n = .dly k) :
    (afterMicros s (n + 1)).wire = (afterMicros s n).wire := by
  simp only [afterMicros, h]
  rfl

/-- The exchanges on the lines so far, newest first: j of them are over after 2j + 1 micro-operations. -/
theorem afterMicros_wire (s : State) (j : Nat) (hj : j ≤ 8) :
    (afterMicros s (2 * j + 1)).wire =
      (((List.finRange 8).take j).reverse.map fun k => WireEvent.exchange 0 s.answers[k]
        (afterMicros s (2 * k.val + 2)).time (afterMicros s (2 * k.val + 3)).time) ++
      .select true (afterMicros s 1).time :: s.wire := by
  induction j with
  | zero => rfl
  | succ j ih =>
    have hx : microAt (2 * j + 2) = .xchg ⟨j, by omega⟩ := microAt_microNumber (.xchg ⟨j, by omega⟩)
    have hd : microAt (2 * j + 1) = .dly ⟨j, by omega⟩ := microAt_microNumber (.dly ⟨j, by omega⟩)
    have hwire : (afterMicros s (2 * j + 3)).wire = .exchange 0 (s.answers[j]) (afterMicros s (2 * j + 2)).time
        (afterMicros s (2 * j + 3)).time :: (afterMicros s (2 * j + 1)).wire := by
      rw [afterMicros_wire_xchg hx, afterMicros_wire_dly hd]
      simp [State.answers]
    rw [List.take_succ_eq_append_getElem (by simp; omega), List.reverse_append, List.map_append, List.append_assoc,
      ← ih (by omega)]
    simpa [Nat.mul_succ] using hwire

/-- Settles O46: the moments are the times of the read cycle's states, the bytes the sensor's answers. -/
theorem readCycleOnTheWire : Obligations.ReadCycleOnTheWire := by
  unfold Obligations.ReadCycleOnTheWire
  intro s op hop h
  have hwire := afterMicros_wire (s.accepted op) 8 le_rfl
  have hregs := afterMicros_regs_csd (s := s.accepted op) rfl (s.accepted_step hop) rfl
  have htime := afterMicros_time (s.accepted op)
  refine ⟨_, (afterMicros (s.accepted op) 18).time, (afterMicros (s.accepted op) 1).time,
    fun k => (afterMicros (s.accepted op) (2 * k.val + 2)).time,
    fun k => (afterMicros (s.accepted op) (2 * k.val + 3)).time,
    runs_offered h hop (.inl le_rfl), ?_, htime 1, fun k => ?_, fun k => ?_, ?_⟩
  · rw [hregs]
    exact congrArg (WireEvent.select false _ :: ·) hwire
  · have hd : microAt (2 * k.val + 3) = .dly k.succ := microAt_microNumber (.dly k.succ)
    have hdelay := htime (2 * k.val + 3)
    rwa [hd] at hdelay
  · exact (Nat.le_add_right _ _).trans (htime (2 * k.val + 2))
  · exact (Nat.le_add_right _ _).trans (htime 17)

/-! ### Completion -/

/-- A busy machine at step n completes within 19 - n steps (R77). -/
theorem completes_within (k : Nat) {s : State} (hb : s.regs.busy = true) (hs : s.regs.step.toNat ≤ 18)
    (hk : 19 ≤ s.regs.step.toNat + k) (hr : s.NoReset k) :
    ∃ n ≤ k, ∃ t, runs n s = .next t ∧ t.regs.busy = false ∧ t.regs.done = true := by
  induction k generalizing s with
  | zero => omega
  | succ k ih =>
    obtain ⟨m, hm⟩ := decodeStep_isSome hs
    have hstep := step_busy (nextPorts_rst_of_take hr) hb hm
    by_cases hends : s.regs.EndsCommand
    · obtain ⟨hbusy, hdone, -⟩ := runMicro_sequence_of_ends m s.busAnswer hends
      exact ⟨1, by omega, _, runs_succ_next hstep, hbusy, hdone⟩
    · obtain ⟨hbusy, -, hnext⟩ := runMicro_sequence_of_not_ends m s.busAnswer hends
      have hgoes := mt s.regs.endsCommand_iff.2 hends
      have hnum : (runMicro m s.busAnswer s.regs).step.toNat = s.regs.step.toNat + 1 := by
        rw [hnext]
        bv_omega
      obtain ⟨n, hn, t, hrun, hend⟩ := ih (s := microStep m s.popPorts) (hbusy.trans hb) (hnum.trans_le (by omega))
        (by rw [show (microStep m s.popPorts).regs.step.toNat = _ from hnum]; omega) (tail_take_of_take hr)
      exact ⟨n + 1, by omega, t, (runs_succ_next hstep).trans hrun, hend⟩

/-- Settles O49: nineteen steps are enough from any step number. -/
theorem everyCommandCompletes : Obligations.EveryCommandCompletes := by
  unfold Obligations.EveryCommandCompletes
  intro s h hb hr
  obtain ⟨⟨-, hstep, -⟩, -⟩ := h
  exact completes_within 19 hb (hstep hb).1 (Nat.le_add_left 19 _) hr

/-- Settles O50: the completing step does not look at the offer and leaves an idle machine, which accepts the next. -/
theorem offerAtCompletionIsDropped : Obligations.OfferAtCompletionIsDropped := by
  unfold Obligations.OfferAtCompletionIsDropped
  intro s p q rest hb hends hports hp hq hstart hop
  have hle : s.regs.step.toNat ≤ 18 := by
    have := s.regs.endsCommand_iff.1 hends
    omega
  obtain ⟨m, hm⟩ := decodeStep_isSome hle
  have hrst : s.nextPorts.rst = false := by rw [State.nextPorts, hports]; exact hp
  obtain ⟨hbusy, hdone, hzero⟩ := runMicro_sequence_of_ends m s.busAnswer hends
  have hidle : (microStep m s.popPorts).regs.Idle := ⟨hbusy, (congrArg BitVec.toNat hzero).trans_le (by decide)⟩
  have hnext : (microStep m s.popPorts).nextPorts = q := by
    change s.ports.tail.headD Ports.quiet = q
    rw [hports]
    rfl
  have haccept := step_of_start (s := microStep m s.popPorts) (by rwa [hnext]) hidle (by rwa [hnext]) (by rwa [hnext])
  refine ⟨_, _, step_busy hrst hb hm, hbusy, hdone, runMicro_opr .., haccept, rfl, rfl, ?_⟩
  rw [hnext]
  rfl

end Sys2Proof.Machine
end

section
/-! PROOF. The cycle level (41_transport_microops.md R71, R73, R75; 70_reset_and_hazards.md R121 for DECODE and NOP):
the byte that an exchange receives, the micro-operations at both levels, where `miso_i` matters, and the step of the whole
machine. -/

namespace Sys2Proof.Machine

variable {t : Timing}

/-! ### The byte received -/

/-- Eight samples make a byte most significant bit first (R73). -/
theorem byteOfBits_eq_ofFnBE (m : Fin 8 → Bool) : byteOfBits m = BitVec.ofFnBE m := by
  apply BitVec.eq_of_toNat_eq
  rw [BitVec.toNat_ofFnBE, byteOfBits, BitVec.toNat_ofNat,
    ← Nat.mod_eq_of_lt (Nat.ofBits_lt_two_pow (m ∘ Fin.rev))]
  simp [Nat.ofBits_succ, List.finRange_succ]
  omega

/-- The b-th sample is bit 7 - b of the byte (R73). -/
theorem byteOfBits_getLsbD (m : Fin 8 → Bool) (b : Fin 8) : (byteOfBits m).getLsbD (7 - b.val) = m b := by
  have hrev : Fin.rev ⟨7 - b.val, by omega⟩ = b := Fin.ext (by simp only [Fin.val_rev]; omega)
  rw [byteOfBits_eq_ofFnBE, BitVec.getLsbD_ofFnBE, dif_pos (by omega), hrev]

/-- Settles O53: by `byteOfBits_getLsbD`. -/
theorem firstBitReceivedIsBitSeven : Obligations.FirstBitReceivedIsBitSeven := byteOfBits_getLsbD

/-- In the last cycle of an exchange `SR` holds the byte received (R19, R73). -/
theorem srAfter_last (h : 1 ≤ t.h) (is : List CycleIn) (sr : Byte) :
    srAfter t (misoAt is) sr (16 * t.h - 1) = receivedByte t is := by
  have hsamples : (16 * t.h - 1 + t.h) / (2 * t.h) = 8 := div_eq_of_bounds (by omega) (by omega)
  apply BitVec.eq_of_getLsbD_eq
  intro i hi
  have hbit := byteOfBits_getLsbD (fun b => misoAt is (2 * t.h * b.val + t.h - 1)) ⟨7 - i, by omega⟩
  rw [show 7 - (7 - i) = i by omega] at hbit
  rw [srAfter_getLsbD h _ _ _ _ hi, hsamples, if_pos hi]
  exact hbit.symm

/-! ### Micro-operations at both levels -/

/-- The last cycle of an exchange stores the byte received (R71). -/
theorem bitEngine_last (ht : t.Ok) (k : Fin 8) (miso : Bool) {r : Regs} (hc : r.count t = 16 * t.h - 1) :
    bitEngine t k miso true r = storeByte k r.sr r := by
  have hh := ht.1
  have hp : r.count t % (2 * t.h) = 2 * t.h - 1 := by rw [hc, exchange_last_mod ht]
  have hlate : ¬ 2 * t.h - 1 = t.h - 1 := by omega
  simp only [bitEngine, hp, hlate, if_true, if_false]
  rfl

/-- A whole micro-operation at cycle level is `runMicro`, an exchange receiving the byte of its sampling edges (R75). -/
theorem cycles_runMicro {m : Micro} {is : List CycleIn} {r : Regs} (ht : t.Ok) (hn : NoResetIn is)
    (hb : r.busy = true) (hm : decodeStep r.step = some m) (hc : r.cnt = 0) (hl : is.length = microCycles t m) :
    cycles t is r = .next (runMicro m (receivedByte t is) r) := by
  rw [cycles_wholeMicro ht hn hb hm hc hl]
  cases m with
  | xchg k =>
    have hcount : (midMicro t (.xchg k) is r (is.length - 1)).count t = 16 * t.h - 1 := by
      have hfits := microCycles_le ht (.xchg k)
      have hpos := microCycles_pos ht (.xchg k)
      rw [Regs.count_of_lt (by rw [midMicro_cnt]; omega), midMicro_cnt, hl]
      rfl
    have hsr : (midMicro t (.xchg k) is r (is.length - 1)).sr = receivedByte t is := by
      rw [hl]
      exact srAfter_last ht.1 is r.sr
    rw [microCycle, bitEngine_last ht k _ hcount, hsr]
    rfl
  | _ => rfl

/-- Only an exchange reads the byte received. -/
theorem runMicro_congr {m : Micro} {a b : Byte} (h : ∀ k, m = .xchg k → a = b) (r : Regs) :
    runMicro m a r = runMicro m b r := by
  cases m with
  | xchg k => rw [h k rfl]
  | _ => rfl

/-- Settles O52: both levels are `runMicro`, with the same byte in an exchange. -/
theorem levelsAgreeOnEveryMicroOperation : Obligations.LevelsAgreeOnEveryMicroOperation := by
  unfold Obligations.LevelsAgreeOnEveryMicroOperation
  intro t s u m is ht hb hm hc hl hn hanswer hu
  rw [exec_toInstr] at hu
  cases hu
  rw [cycles_runMicro ht hn hb hm hc hl]
  exact congrArg Host.Outcome.next (runMicro_congr (fun k hk => (hanswer k hk).symm) s.regs)

/-! ### Where `miso_i` matters -/

/-- One cycle of a micro-operation reads `miso_i` only as an exchange samples it (R71). -/
theorem microCycle_miso_congr {m : Micro} {r : Regs} (h : ∀ k, m = .xchg k → r.count t % (2 * t.h) ≠ t.h - 1)
    (a b last : Bool) : microCycle t m a last r = microCycle t m b last r := by
  cases m with
  | xchg k => simp only [microCycle, bitEngine, if_neg (h k rfl)]
  | _ => rfl

/-- Settles O54: where an edge reads `miso_i` it is not a reset, the machine is busy, and `microCycle` samples. -/
theorem misoMattersOnlyAtSamplingEdges : Obligations.MisoMattersOnlyAtSamplingEdges := by
  unfold Obligations.MisoMattersOnlyAtSamplingEdges
  intro t h a b r hne
  cases hr : h.rst with
  | true => exact absurd ((cycle_reset hr).trans (cycle_reset hr).symm) hne
  | false =>
    cases hm : decodeStep r.step with
    | none => exact absurd ((cycle_reserved hr hm).trans (cycle_reserved hr hm).symm) hne
    | some m =>
      cases hb : r.busy with
      | false =>
        have hs := decodeStep_le hm
        exact absurd ((cycle_idle (i := ⟨h, a⟩) hr hb hs).trans (cycle_idle (i := ⟨h, b⟩) hr hb hs).symm) hne
      | true =>
        by_contra hnot
        have hquiet (k : Fin 8) (hk : m = .xchg k) : r.count t % (2 * t.h) ≠ t.h - 1 := fun hp =>
          hnot ⟨rfl, rfl, ⟨k, by rw [hk]⟩, hp⟩
        refine hne ((cycle_busy hr hb hm).trans (.trans ?_ (cycle_busy hr hb hm).symm))
        rw [microCycle_miso_congr hquiet a b, microCycle_miso_congr hquiet a b]

/-! ### DECODE and NOP -/

/-- Settles O57: a DECODE is accepted and its DEC takes one cycle; a NOP is not accepted. -/
theorem decodeAndNopDuration : Obligations.DecodeAndNopDuration := by
  unfold Obligations.DecodeAndNopDuration
  intro t i j r hidle hr hs hr'
  refine ⟨fun hop => ?_, fun hop => ?_⟩
  · have hstep : (accept i.host.op r).step = 18 := by rw [accept_step, hop]; rfl
    have hdec : cycle t j (accept i.host.op r) = .next (endMicro (latchSample (fdDecode r.fb) (accept i.host.op r))) :=
      cycle_last (m := .dec) hr' rfl (by rw [hstep]; rfl) (Regs.count_of_zero rfl)
    rw [endMicro_dec _ hstep] at hdec
    exact ⟨_, _, cycle_of_start hr hidle hs (by rw [hop]; decide), rfl, rfl, hdec, rfl, rfl, rfl⟩
  · rw [cycle_idle hr hidle.1 hidle.2, if_neg (by simp [hop])]

/-! ### The step of the whole machine -/

/-- A line event that may happen leaves the registers, the time and the host's inputs alone. -/
theorem State.logWire_ite_frame (c : Prop) [Decidable c] (e : WireEvent) (s : State) :
    (if c then s.logWire e else s).regs = s.regs ∧ (if c then s.logWire e else s).time = s.time ∧
      (if c then s.logWire e else s).ports = s.ports := by
  split <;> exact ⟨rfl, rfl, rfl⟩

/-- Settles O60: what follows the edge logs line events and consumes sensor bytes only. -/
theorem cycleStepFollowsTheEdge : Obligations.CycleStepFollowsTheEdge := by
  unfold Obligations.CycleStepFollowsTheEdge
  intro t s u h
  unfold cycleStep at h
  cases hc : cycle t { host := s.nextPorts, miso := s.misoNow t } s.regs with
  | fault e => cases e
  | refused e => simp [hc] at h
  | next r =>
    simp only [hc] at h
    obtain ⟨hregs, htime, hports⟩ := State.logWire_ite_frame (r.cs != s.regs.cs) (.select r.cs (s.time + 1))
      { s.popPorts.setRegs r with tick := s.tick + 1, time := s.time + 1 }
    refine ⟨congrArg Host.Outcome.next (Eq.trans hregs.symm ?_), .trans ?_ htime, .trans ?_ hports⟩ <;>
    · split at h
      · cases h; rfl
      · split at h <;> cases h <;> rfl

end Sys2Proof.Machine
end

section
/-! PROOF. Whole transport commands at cycle level (41_transport_microops.md R74; 70_reset_and_hazards.md R121): at
which edges each micro-operation starts, what the registers are at every edge from acceptance to completion, and what that
shows of BUSY, chip-select, the frame buffer and the clock line. -/

namespace Sys2Proof.Machine

variable {t : Timing}

/-! ### When each micro-operation starts -/

/-- The number of edges from the acceptance of a transport command to the start of step n (R74). -/
def microStart (t : Timing) : Nat → Nat
  | 0     => 0
  | n + 1 => microStart t n + microCycles t (microAt n)

theorem microStart_lt_succ (ht : t.Ok) (n : Nat) : microStart t n < microStart t (n + 1) :=
  Nat.lt_add_of_pos_right (microCycles_pos ht _)

theorem microStart_strictMono (ht : t.Ok) : StrictMono (microStart t) :=
  strictMono_nat_of_lt_succ (microStart_lt_succ ht)

/-- One more delay is in the sum. -/
theorem holdSum_succ (t : Timing) (k : Nat) (hk : k < 7) : holdSum t (k + 1) = holdSum t k + t.nHold[k] := by
  rw [holdSum, holdSum, List.sum_take_succ _ _ (by simpa using hk), Vector.getElem_toList]

/-- XCHG k starts at the edge `T_k` (R74). -/
theorem microStart_xchg (t : Timing) (k : Nat) (hk : k < 8) : microStart t (2 * k + 2) = cyclesBeforeExchange t k := by
  induction k with
  | zero => rw [cyclesBeforeExchange, holdSum, List.take_zero, List.sum_nil, Nat.zero_mul]; rfl
  | succ k ih =>
    have hx : microAt (2 * k + 2) = .xchg ⟨k, by omega⟩ := microAt_microNumber (.xchg ⟨k, by omega⟩)
    have hd : microAt (2 * k + 3) = .dly ⟨k + 1, hk⟩ := microAt_microNumber (.dly ⟨k + 1, hk⟩)
    have hstart : microStart t (2 * k + 4) = microStart t (2 * k + 2) + exchangeCycles t + t.nHold[k] := by
      simp only [microStart, hx, hd]
      rfl
    have hsum := holdSum_succ t k (by omega)
    rw [show 2 * (k + 1) + 2 = 2 * k + 4 by omega, hstart, ih (by omega)]
    simp only [cyclesBeforeExchange, Nat.succ_mul, hsum]
    omega

/-- XCHG k ends at the edge `T_k + B` (R74). -/
theorem microStart_after_xchg (t : Timing) (k : Fin 8) :
    microStart t (2 * k.val + 3) = cyclesBeforeExchange t k + exchangeCycles t := by
  have hx : microAt (2 * k.val + 2) = .xchg k := microAt_microNumber (.xchg k)
  rw [microStart, microStart_xchg t k.val k.isLt, hx]
  rfl

/-- CSD ends at the edge `T_7 + B + 1` (R74). -/
theorem microStart_after_csd (t : Timing) :
    microStart t 18 = cyclesBeforeExchange t 7 + exchangeCycles t + 1 :=
  congrArg (· + 1) (microStart_after_xchg t 7)

/-- Every edge before step N starts is in one of the steps below N. -/
theorem exists_microStart_le_lt (t : Timing) {c N : Nat} (h : c < microStart t N) :
    ∃ n < N, microStart t n ≤ c ∧ c < microStart t (n + 1) := by
  induction N with
  | zero => exact absurd h (Nat.not_lt_zero c)
  | succ N ih =>
    obtain hlt | hge := Nat.lt_or_ge c (microStart t N)
    · obtain ⟨n, hn, hstep⟩ := ih hlt
      exact ⟨n, by omega, hstep⟩
    · exact ⟨N, Nat.lt_succ_self N, hge, h⟩

/-- An edge of step n is past the start of step i just when i is at most n. -/
theorem microStart_le_iff (ht : t.Ok) {c n i : Nat} (hle : microStart t n ≤ c) (hlt : c < microStart t (n + 1)) :
    microStart t i ≤ c ↔ i ≤ n := by
  have hmono := microStart_strictMono ht
  constructor
  · intro h
    have := hmono.lt_iff_lt.1 (h.trans_lt hlt)
    omega
  · exact fun h => (hmono.monotone h).trans hle

/-! ### The registers at every edge -/

/-- The bytes received in the read cycle whose edges after the acceptance have these inputs. -/
def receivedFrame (t : Timing) (is : List CycleIn) : Frame :=
  Vector.ofFn fun k => receivedByte t ((is.drop (cyclesBeforeExchange t k)).take (exchangeCycles t))

/-- From the start of step n the edges of its micro-operation lead to the start of the next. -/
theorem cycles_microStart_succ {is : List CycleIn} {r u : Regs} {n : Nat} (ht : t.Ok) (hr : NoResetIn is)
    (hl : microStart t (n + 1) ≤ is.length) (hu : cycles t (is.take (microStart t n)) r = .next u)
    (hb : u.busy = true) (hm : decodeStep u.step = some (microAt n)) (hc : u.cnt = 0) :
    cycles t (is.take (microStart t (n + 1))) r = .next (runMicro (microAt n)
      (receivedByte t ((is.drop (microStart t n)).take (microCycles t (microAt n)))) u) := by
  rw [microStart] at hl
  rw [microStart, List.take_add, cycles_append_next hu]
  exact cycles_runMicro ht (fun i hi => hr i (List.mem_of_mem_drop (List.mem_of_mem_take hi))) hb hm hc
    (by rw [List.length_take, List.length_drop]; omega)

section
variable {is : List CycleIn} {r : Regs} (ht : t.Ok) (hr : NoResetIn is) (hb : r.busy = true) (hs : r.step = 0)
  (hc : r.cnt = 0)
include ht hr hb hs hc

/-- At the start of each step up to CSD the registers are those of `Regs.inReadCycle`, with the bytes received. -/
theorem cycles_microStart {n : Nat} (hn : n ≤ 17) (hl : microStart t n ≤ is.length) :
    cycles t (is.take (microStart t n)) r = .next (r.inReadCycle (receivedFrame t is) n) := by
  induction n with
  | zero => exact congrArg Host.Outcome.next (r.inReadCycle_zero _ hs hc).symm
  | succ n ih =>
    have hanswer (k : Fin 8) (hk : microAt n = .xchg k) :
        receivedByte t ((is.drop (microStart t n)).take (microCycles t (microAt n))) = (receivedFrame t is)[k] := by
      have hnum := microNumber_microAt (n := n) (by omega)
      rw [hk, microNumber] at hnum
      rw [hk, ← hnum, microStart_xchg t k.val k.isLt]
      simp [receivedFrame, microCycles]
    have hprev := ih (by omega) ((microStart_lt_succ ht n).le.trans hl)
    rw [cycles_microStart_succ ht hr hl hprev hb (r.decodeStep_inReadCycle _ (by omega)) rfl,
      runMicro_inReadCycle _ _ (by omega) hanswer]

/-- At an edge inside step n, n up to 17, the registers are those in the middle of its micro-operation. -/
theorem cycles_inMicro {n c : Nat} (hn : n ≤ 17) (hle : microStart t n ≤ c) (hlt : c < microStart t (n + 1))
    (hl : c ≤ is.length) :
    cycles t (is.take c) r = .next (midMicro t (microAt n) (is.drop (microStart t n))
      (r.inReadCycle (receivedFrame t is) n) (c - microStart t n)) := by
  rw [microStart] at hlt
  rw [show is.take c = is.take (microStart t n + (c - microStart t n)) by rw [Nat.add_sub_cancel' hle], List.take_add,
    cycles_append_next (cycles_microStart ht hr hb hs hc hn (hle.trans hl))]
  exact cycles_midMicro (r := r.inReadCycle (receivedFrame t is) n) ht (fun i hi => hr i (List.mem_of_mem_drop hi)) hb
    (r.decodeStep_inReadCycle _ (by omega)) rfl _ (by rw [List.length_drop]; omega) (by omega)

/-- At the end of CSD the registers are those of `Regs.afterTransport`, with the bytes received. -/
theorem cycles_afterCsd (hl : microStart t 18 ≤ is.length) :
    cycles t (is.take (microStart t 18)) r = .next (r.afterTransport (receivedFrame t is)) := by
  have hcsd := cycles_microStart ht hr hb hs hc le_rfl ((microStart_lt_succ ht 17).le.trans hl)
  rw [cycles_microStart_succ ht hr hl hcsd hb (r.decodeStep_inReadCycle _ (by omega)) rfl,
    runMicro_csd_inReadCycle _ hb]

end

/-- An edge of a transport command's read cycle, counted from its acceptance: inside one of the steps 0 to 17, or at the
end of CSD. -/
theorem readCycle_cases {is : List CycleIn} {r u : Regs} (ht : t.Ok) (hr : NoResetIn is) (hb : r.busy = true)
    (hs : r.step = 0) (hc : r.cnt = 0) (hl : is.length ≤ microStart t 18) (hu : cycles t is r = .next u) :
    (∃ n ≤ 17, microStart t n ≤ is.length ∧ is.length < microStart t (n + 1) ∧
      u = midMicro t (microAt n) (is.drop (microStart t n)) (r.inReadCycle (receivedFrame t is) n)
        (is.length - microStart t n)) ∨
    (is.length = microStart t 18 ∧ u = r.afterTransport (receivedFrame t is)) := by
  obtain hlt | heq := hl.lt_or_eq
  · obtain ⟨n, hn, hle, hlt⟩ := exists_microStart_le_lt t hlt
    have hmid := cycles_inMicro ht hr hb hs hc (by omega) hle hlt le_rfl
    rw [List.take_length, hu] at hmid
    exact .inl ⟨n, by omega, hle, hlt, Host.Outcome.next.inj hmid⟩
  · have hend := cycles_afterCsd ht hr hb hs hc heq.ge
    rw [← heq, List.take_length, hu] at hend
    exact .inr ⟨heq, Host.Outcome.next.inj hend⟩

/-- The edge that accepts a transport command (R55). -/
theorem cycles_offered {i : CycleIn} {r : Regs} (hidle : r.Idle) (hi : i.OffersTransport) (is : List CycleIn) :
    cycles t (i :: is) r = cycles t is (accept i.host.op r) := by
  obtain ⟨hr, hs, hop⟩ := hi
  have hne : i.host.op ≠ 0 := by
    intro h0
    rw [h0] at hop
    cases hop
  simp only [cycles, cycle_of_start hr hidle hs hne]

/-! ### Duration -/

/-- The edges of a READ_RAW, summed (R121). -/
theorem microStart_csd_eq (t : Timing) :
    microStart t 18 = 1 + t.nSettle + 128 * t.h + t.nHold.toList.sum + 1 := by
  have hall : holdSum t 7 = t.nHold.toList.sum := by
    rw [holdSum, List.take_of_length_le (by simp)]
  rw [microStart_after_csd, cyclesBeforeExchange, hall, exchangeCycles]
  omega

/-- The middle of a micro-operation leaves DONE alone (R15). -/
theorem midMicro_done (m : Micro) (is : List CycleIn) (r : Regs) (n : Nat) : (midMicro t m is r n).done = r.done := by
  cases m <;> rfl

/-- Settles O56: BUSY is 1 inside the steps up to CSD, and in a SAMPLE at DEC; after that the command is complete. -/
theorem transportCommandDuration : Obligations.TransportCommandDuration := by
  unfold Obligations.TransportCommandDuration
  intro t i is r ht hidle hi hr hl
  rw [← microStart_csd_eq] at hl
  obtain ⟨-, -, hop⟩ := id hi
  have hstep : (accept i.host.op r).step = 0 := if_pos hop
  have hmid {n : Nat} (hn : n < microStart t 18) (hn' : n ≤ is.length) :
      ∃ u, cycles t (i :: is.take n) r = .next u ∧ u.busy = true ∧ u.done = false := by
    obtain ⟨j, hj, hle, hlt⟩ := exists_microStart_le_lt t hn
    rw [cycles_offered hidle hi]
    exact ⟨_, cycles_inMicro ht hr rfl hstep rfl (by omega) hle hlt hn', midMicro_busy .., midMicro_done ..⟩
  have hcsd := cycles_afterCsd (r := accept i.host.op r) ht hr rfl hstep rfl (by omega)
  cases hsample : i.host.op.getLsbD 1 with
  | false =>
    rw [hsample, if_neg Bool.false_ne_true, Nat.add_zero] at hl
    rw [← hl, List.take_length] at hcsd
    exact ⟨⟨_, (cycles_offered hidle hi is).trans hcsd, hsample, if_neg (Bool.eq_false_iff.1 hsample)⟩,
      fun n hn => hmid (by omega) hn.le⟩
  | true =>
    rw [hsample, if_pos rfl] at hl
    have hdec : ((accept i.host.op r).afterTransport (receivedFrame t is)).step = 18 := if_pos hsample
    have hend := cycles_microStart_succ ht hr (n := 18) hl.ge hcsd hsample (by rw [hdec]; rfl) rfl
    obtain ⟨hbusy, hdone, -⟩ := runMicro_sequence_of_ends (microAt 18)
      (receivedByte t ((is.drop (microStart t 18)).take (microCycles t (microAt 18)))) (.inl hdec)
    rw [show microStart t (18 + 1) = is.length from hl.symm, List.take_length] at hend
    refine ⟨⟨_, (cycles_offered hidle hi is).trans hend, hbusy, hdone⟩, fun n hn => ?_⟩
    obtain hlt | heq : n < microStart t 18 ∨ n = microStart t 18 := by omega
    · exact hmid hlt hn.le
    · rw [heq, cycles_offered hidle hi]
      exact ⟨_, hcsd, hsample, if_pos hsample⟩

/-! ### Chip-select and the frame buffer -/

/-- Settles O58: inside step n chip-select is asserted from step 1 on, and `FB[k]` is in from step 2k + 3 on; at the end
of CSD chip-select is deasserted. -/
theorem readCycleEdges : Obligations.ReadCycleEdges := by
  unfold Obligations.ReadCycleEdges
  intro t i is r u ht hidle hcs hi hr hl hu
  rw [← microStart_after_csd] at hl
  rw [cycles_offered hidle hi] at hu
  obtain ⟨-, -, hop⟩ := id hi
  have hreceived (k : Fin 8) : (receivedFrame t is)[k] =
      receivedByte t ((is.drop (cyclesBeforeExchange t k)).take (exchangeCycles t)) := by
    simp [receivedFrame]
  have hcsd := microStart_after_csd t
  obtain ⟨n, hn, hle, hlt, rfl⟩ | ⟨heq, rfl⟩ := readCycle_cases ht hr rfl (if_pos hop) rfl hl hu
  · have hiff {i : Nat} := microStart_le_iff (i := i) ht hle hlt
    refine ⟨?_, fun k => ?_⟩
    · have hlast := (microStart_strictMono ht).monotone (show n + 1 ≤ 18 by omega)
      have hfirst : microStart t 1 = 1 := rfl
      rw [midMicro_cs, Regs.inReadCycle_cs, accept_cs, hcs, Bool.or_false, decide_eq_true_iff, ← hiff, hfirst]
      omega
    · rw [midMicro_fb, Regs.inReadCycle_fb, ← hreceived, ← microStart_after_xchg]
      simp only [hiff]
      rfl
  · refine ⟨?_, fun k => ?_⟩
    · simp only [Regs.afterTransport, Bool.false_eq_true, false_iff]
      omega
    · have hover := (microStart_strictMono ht).monotone (show 2 * k.val + 3 ≤ 18 by omega)
      rw [← hreceived, ← microStart_after_xchg, if_pos (hover.trans heq.ge)]
      rfl

/-! ### The clock line -/

/-- The second halves of the eight bit periods of an exchange (R73). -/
theorem second_half_iff (h m : Nat) (hm : m < 16 * h) :
    h ≤ m % (2 * h) ↔ ∃ b : Fin 8, 2 * h * b.val + h ≤ m ∧ m < 2 * h * (b.val + 1) := by
  have hpos : 0 < 2 * h := by omega
  have hdm := Nat.div_add_mod m (2 * h)
  have hlt := Nat.mod_lt m hpos
  constructor
  · intro hhigh
    have hb : m / (2 * h) < 8 := Nat.div_lt_of_lt_mul (by omega)
    refine ⟨⟨m / (2 * h), hb⟩, ?_, ?_⟩
    · change 2 * h * (m / (2 * h)) + h ≤ m
      omega
    · change m < 2 * h * (m / (2 * h)) + 2 * h
      omega
  · rintro ⟨b, hlow, hup⟩
    rw [Nat.mul_succ] at hup
    have hdiv : m / (2 * h) = b.val := div_eq_of_bounds (by omega) hup
    rw [hdiv] at hdm
    omega

/-- A second half of a bit period of exchange k is inside the step of XCHG k. -/
theorem microStart_le_of_bit {c : Nat} {k b : Fin 8}
    (hlow : cyclesBeforeExchange t k + 2 * t.h * b.val + t.h ≤ c)
    (hup : c < cyclesBeforeExchange t k + 2 * t.h * (b.val + 1)) :
    microStart t (2 * k.val + 2) ≤ c ∧ c < microStart t (2 * k.val + 3) := by
  have hbits : 2 * t.h * (b.val + 1) ≤ 2 * t.h * 8 := Nat.mul_le_mul_left _ (by omega)
  rw [microStart_xchg t k.val k.isLt, microStart_after_xchg, exchangeCycles]
  omega

/-- So an edge in such a half is in that exchange. -/
theorem microAt_of_bit (ht : t.Ok) {n c : Nat} (hle : microStart t n ≤ c) (hlt : c < microStart t (n + 1)) {k b : Fin 8}
    (hlow : cyclesBeforeExchange t k + 2 * t.h * b.val + t.h ≤ c)
    (hup : c < cyclesBeforeExchange t k + 2 * t.h * (b.val + 1)) : microAt n = .xchg k := by
  obtain ⟨hfrom, hto⟩ := microStart_le_of_bit hlow hup
  have hge := (microStart_le_iff ht hle hlt).1 hfrom
  have hnot := mt (microStart_le_iff ht hle hlt).2 (Nat.not_le.2 hto)
  rw [show n = 2 * k.val + 2 by omega]
  exact microAt_microNumber (.xchg k)

/-- In an exchange that starts with the clock line low, the line is high in the second half of each bit period (R73). -/
theorem midMicro_xchg_sclk (h : 1 ≤ t.h) (k : Fin 8) (is : List CycleIn) {r : Regs} (hlow : r.sclk = false) (n : Nat) :
    (midMicro t (.xchg k) is r n).sclk = decide (t.h ≤ n % (2 * t.h)) := by
  rw [midMicro, hlow, sclkAfter_eq h]

/-- Any other micro-operation leaves the line alone. -/
theorem midMicro_sclk {m : Micro} (hm : ∀ k, m ≠ .xchg k) (is : List CycleIn) (r : Regs) (n : Nat) :
    (midMicro t m is r n).sclk = r.sclk := by
  cases m with
  | xchg k => exact absurd rfl (hm k)
  | _ => rfl

/-- Settles O59: an edge of XCHG k shows the halves of its bit periods, and every other edge is in no such half. -/
theorem clockLineEdges : Obligations.ClockLineEdges := by
  unfold Obligations.ClockLineEdges
  intro t i is r u ht hidle hsclk hi hr hl hu
  rw [← microStart_after_csd] at hl
  rw [cycles_offered hidle hi] at hu
  obtain ⟨-, -, hop⟩ := id hi
  obtain ⟨n, hn, hle, hlt, rfl⟩ | ⟨heq, rfl⟩ := readCycle_cases ht hr rfl (if_pos hop) rfl hl hu
  · have hlow : ((accept i.host.op r).inReadCycle (receivedFrame t is) n).sclk = false := by
      rw [Regs.inReadCycle_sclk, accept_sclk, hsclk, Bool.and_false]
    by_cases hx : ∃ k, microAt n = .xchg k
    · obtain ⟨k, hk⟩ := hx
      have hnum := microNumber_microAt (n := n) (by omega)
      rw [hk, microNumber] at hnum
      have hstart : microStart t n = cyclesBeforeExchange t k := by rw [← hnum, microStart_xchg t k.val k.isLt]
      have hend : microStart t (n + 1) = cyclesBeforeExchange t k + 16 * t.h := by
        rw [← hnum]
        exact microStart_after_xchg t k
      rw [hk, midMicro_xchg_sclk ht.1 k _ hlow, decide_eq_true_iff, second_half_iff _ _ (by omega), hstart]
      constructor
      · rintro ⟨b, h1, h2⟩
        exact ⟨k, b, by omega, by omega⟩
      · rintro ⟨j, b, h1, h2⟩
        obtain rfl : k = j := by simpa [hk] using microAt_of_bit ht hle hlt h1 h2
        exact ⟨b, by omega, by omega⟩
    · rw [midMicro_sclk (fun k hk => hx ⟨k, hk⟩), hlow]
      refine iff_of_false Bool.false_ne_true ?_
      rintro ⟨k, b, h1, h2⟩
      exact hx ⟨k, microAt_of_bit ht hle hlt h1 h2⟩
  · refine iff_of_false Bool.false_ne_true ?_
    rintro ⟨k, b, h1, h2⟩
    obtain ⟨-, hto⟩ := microStart_le_of_bit h1 h2
    have hover := (microStart_strictMono ht).monotone (show 2 * k.val + 3 ≤ 18 by omega)
    omega

end Sys2Proof.Machine
end
